-- ==== Sys2Proof/Word.lean ====
section
/-! DEFINITION. The two word types of the machine: bytes (u8) and CPU addresses (u16), rule R10 of 00_scope.md. -/

namespace Sys2Proof

/-- An unsigned 8-bit value: every CPU register and every memory byte (R10). -/
abbrev Byte := BitVec 8

/-- An unsigned 16-bit value: PC and every CPU address (R10). -/
abbrev Word := BitVec 16

end Sys2Proof
end

