-- ==== Sys2Proof/Machine/Bits.lean ====
section
/-! DEFINITION. Bit-field, sign-extension and byte-order helpers: the notation of rules R9 and R10 (00_scope.md) and the
little-endian order of rule R110 (20_memory.md). -/

namespace Sys2Proof.Bits

/-- `{hi, lo}` of R9: a 16-bit value from its two bytes. -/
def word (hi lo : Byte) : Word := hi ++ lo

/-- `w[15:8]`. -/
def hiByte (w : Word) : Byte := w.extractLsb' 8 8

/-- `w[7:0]`. -/
def loByte (w : Word) : Byte := w.extractLsb' 0 8

/-- `zext_16` of a byte (R10): a zero-page address, or an index to add. -/
def zext16 (b : Byte) : Word := b.setWidth 16

/-- `sext_16` of a byte (R10): a branch offset (R141). -/
def sext16 (b : Byte) : Word := b.signExtend 16

/-- `v[lo+w-1:lo] <- f`: write a field, all other bits kept (R9, R11). -/
def putField {n w : Nat} (v : BitVec n) (lo : Nat) (f : BitVec w) : BitVec n :=
  (v &&& ~~~((BitVec.allOnes w).setWidth n <<< lo)) ||| (f.setWidth n <<< lo)

/-- A 2-bit value from its high and its low bit, `{hi, lo}`. -/
def pair (hi lo : Bool) : BitVec 2 := BitVec.ofBool hi ++ BitVec.ofBool lo

/-- `Rev8` of R472 (51_ppu_rendering.md): the bits of a byte in reverse order. -/
def rev8 (b : Byte) : Byte :=
  BitVec.ofBool (b.getLsbD 0) ++ BitVec.ofBool (b.getLsbD 1) ++ BitVec.ofBool (b.getLsbD 2) ++ BitVec.ofBool (b.getLsbD 3) ++
    BitVec.ofBool (b.getLsbD 4) ++ BitVec.ofBool (b.getLsbD 5) ++ BitVec.ofBool (b.getLsbD 6) ++ BitVec.ofBool (b.getLsbD 7)

/-- The first `n` bytes of a number, least significant byte first: the bytes of an instruction as the opcode table
numbers its bits. -/
def bytesOf : Nat → Nat → List Byte
  | 0, _ => []
  | n + 1, w => BitVec.ofNat 8 w :: bytesOf n (w / 256)

end Sys2Proof.Bits
end

