-- ==== Sys2Proof/Config.lean ====
section
/-! DEFINITION. The constants and the parameters of the core: the table of rule R7 (00_scope.md). -/

namespace Sys2Proof

namespace Config

/-- RAM_SIZE (R7): system RAM. -/
def ramSize : Nat := 2048
/-- NAMETABLE_RAM_SIZE (R7). -/
def vramSize : Nat := 2048
/-- PALETTE_RAM_SIZE (R7). -/
def paletteSize : Nat := 32
/-- OAM_SIZE (R7). -/
def oamSize : Nat := 256
/-- BRINGUP_RAM_SIZE (R7). -/
def bringupSize : Nat := 32768
/-- One PRG bank (R58). -/
def prgBankSize : Nat := 16384
/-- One CHR bank, and the CHR RAM (R58). -/
def chrBankSize : Nat := 8192
/-- FRAME_WIDTH × FRAME_HEIGHT (R7, R57). -/
def frameBufferSize : Nat := 256 * 240
/-- CPU_DIVIDER (R7): bus ticks per CPU cycle. -/
def cpuDivider : Nat := 3
/-- NMI_CYCLES (R7). -/
def nmiCycles : Nat := 7
/-- RESET_CYCLES (R7). -/
def resetCycles : Nat := 7
/-- ILLEGAL_OPCODE_CYCLES (R7, R146). -/
def illegalOpcodeCycles : Nat := 2
/-- OAM_DMA_STALL (R7, R86), in CPU cycles. -/
def oamDmaStall : Nat := 513

end Config

/-- TICK_ORDER (R7, R577): what runs first in a bus tick. -/
inductive TickOrder where
  | ppuFirst
  | cpuFirst
  deriving DecidableEq, Repr

/-- ILLEGAL_OPCODE_POLICY (R7, R368): what an unassigned opcode does. -/
inductive IllegalPolicy where
  | nop
  | refuse
  deriving DecidableEq, Repr

/-- The parameters of R7 that have more than one admitted value. They are fixed when the core is constructed and no
step changes them; State holds them so that every claim ranges over all of their values (log 4). -/
structure Params where
  tickOrder        : TickOrder
  pageCrossPenalty : Bool
  branchPenalty    : Bool
  illegalPolicy    : IllegalPolicy
  deriving DecidableEq, Repr

/-- The defaults of R7: PPU first (D8), no page-cross penalty (D6), branch penalty (D7), unassigned opcodes are no-ops (D43). -/
def Params.default : Params :=
  { tickOrder := .ppuFirst, pageCrossPenalty := false, branchPenalty := true, illegalPolicy := .nop }

end Sys2Proof
end

