-- ==== Sys2Proof/Machine/State.lean ====
section
/-! DEFINITION. The state of the core as plain data: every piece of state of 10_state.md, the cartridge and the host's
inputs and parameters; the reasons a step can stop; the state right after reset (rule R60); the plain field updates. -/

namespace Sys2Proof.Machine

/-- A memory as the list of its cells that differ from what an unlisted index reads as: indexes strictly rising, no
entry equal to that value (`Memory.wf`). -/
abbrev Cells (w : Nat) := List (Nat × BitVec w)

/-- A memory of bytes. -/
abbrev Memory := List Host.Cell

/-! ## CPU (R30 to R40) -/

/-- The CPU's registers and sequencing state. -/
structure Cpu where
  /-- A (R30). -/
  a : Byte
  /-- X (R30). -/
  x : Byte
  /-- Y (R30). -/
  y : Byte
  /-- SP, an index into page 0x01 (R31). -/
  sp : Byte
  /-- PC (R32). -/
  pc : Word
  /-- P: bit 7 N, 6 V, 5 U, 4 B, 3 D, 2 I, 1 Z, 0 C (R33). -/
  p : Byte
  /-- The remaining-cycles counter; 0 exactly at an instruction boundary (R39). -/
  countdown : Nat
  /-- The NMI request latch (R40). -/
  nmiPending : Bool
  deriving DecidableEq, Repr

/-! ## PPU (R45 to R57) -/

/-- One 4-byte entry of OAM or secondary OAM (R52, R53). -/
structure OamEntry where
  y    : Byte
  tile : Byte
  attr : Byte
  x    : Byte
  deriving DecidableEq, Repr

/-- An entry of four 0xFF bytes: what evaluation leaves in an unused slot (R60, R466). -/
def OamEntry.unused : OamEntry := ⟨0xFF, 0xFF, 0xFF, 0xFF⟩

/-- The PPU's registers, memories, timing and pipeline state. -/
structure Ppu where
  /-- PPUCTRL (R45). -/
  ctrl : Byte
  /-- PPUMASK (R46). -/
  mask : Byte
  /-- PPUSTATUS bit 7 (R47). -/
  vblank : Bool
  /-- PPUSTATUS bit 6 (R47). -/
  sprite0Hit : Bool
  /-- PPUSTATUS bit 5 (R47). -/
  spriteOverflow : Bool
  /-- OAMADDR (R48). -/
  oamAddr : Byte
  /-- The current VRAM address: 4:0 coarse X, 9:5 coarse Y, 10 nametable X, 11 nametable Y, 14:12 fine Y (R49). -/
  v : BitVec 15
  /-- The temporary VRAM address, laid out as `v` (R49). -/
  t : BitVec 15
  /-- Fine X (R50). -/
  x : BitVec 3
  /-- The write toggle of PPUSCROLL and PPUADDR (R50). -/
  w : Bool
  /-- The PPUDATA read buffer (R50). -/
  dataBuffer : Byte
  /-- The NMI output flag to the bus (R51). -/
  nmiOut : Bool
  /-- Nametable RAM, 2048 bytes: page A, then page B (R52). -/
  vram : Memory
  /-- Palette RAM, 32 bytes (R52). -/
  palette : Memory
  /-- OAM, 256 bytes, 64 entries of Y, tile, attribute, X (R52). -/
  oam : Memory
  /-- Secondary OAM, 32 bytes: 8 entries (R52). -/
  oam2 : Vector OamEntry 8
  /-- R54. -/
  scanline : Fin 262
  /-- R54. -/
  dot : Fin 341
  /-- R54. -/
  frame : Nat
  /-- The nametable byte latch (R55). -/
  bgNextId : Byte
  /-- The attribute latch (R55). -/
  bgNextAttr : BitVec 2
  /-- The low pattern plane latch (R55). -/
  bgNextLo : Byte
  /-- The high pattern plane latch (R55). -/
  bgNextHi : Byte
  /-- The background shift registers (R55). -/
  bgPatLo  : BitVec 16
  bgPatHi  : BitVec 16
  bgAttrLo : BitVec 16
  bgAttrHi : BitVec 16
  /-- How many entries of `oam2` are in use, 0 to 8 (R56). -/
  spriteCount : Fin 9
  /-- The sprite pattern registers, low plane (R56). -/
  sprLo : Vector Byte 8
  /-- The sprite pattern registers, high plane (R56). -/
  sprHi : Vector Byte 8
  /-- OAM entry 0 was selected for the line being drawn (R56). -/
  sprite0InLine : Bool
  /-- 256 × 240 colour indices, entry `scanline * 256 + dot - 1` (R57). -/
  frameBuffer : Cells 6
  deriving DecidableEq, Repr

/-! ## Cartridge (R58) -/

/-- The two mapper variants (R96). -/
inductive Mapper where
  /-- The fixed-bank variant, mapper id 0. -/
  | fixed
  /-- The switchable-CHR-bank variant, mapper id 3. -/
  | switchableChr
  deriving DecidableEq, Repr

/-- prg_banks: one 16 KiB bank or two (R95). -/
inductive PrgBanks where
  | one
  | two
  deriving DecidableEq, Repr

/-- cart.mirroring: 0 horizontal, 1 vertical (R58, R103). -/
inductive Mirroring where
  | horizontal
  | vertical
  deriving DecidableEq, Repr

/-- An inserted cartridge. Only `chrBank`, and `chr` when `chrBanks` is 0, change after construction (R58). -/
structure Cartridge where
  mapper    : Mapper
  prgBanks  : PrgBanks
  /-- 8 KiB units; 0 means that `chr` is 8 KiB of RAM. -/
  chrBanks  : Nat
  mirroring : Mirroring
  prg       : Memory
  chr       : Memory
  /-- The CHR bank-select register. -/
  chrBank   : Nat
  deriving DecidableEq, Repr

/-! ## Controller ports (R59) -/

/-- The two controller ports, with the host's button bytes (bit 7 A, 6 B, 5 Select, 4 Start, 3 Up, 2 Down, 1 Left, 0 Right). -/
structure Controllers where
  strobe   : Bool
  shift0   : Byte
  shift1   : Byte
  /-- BUTTONS[0], set by the host between ticks. -/
  buttons0 : Byte
  /-- BUTTONS[1], set by the host between ticks. -/
  buttons1 : Byte
  deriving DecidableEq, Repr

/-! ## The whole state -/

structure State where
  cpu          : Cpu
  /-- System RAM, 2048 bytes (R42). -/
  ram          : Memory
  /-- The system clock counter, one per bus tick (R43). -/
  clockCounter : Nat
  /-- 32768 bytes behind 0x8000 to 0xFFFF when no cartridge is inserted (R44). -/
  bringupRam   : Memory
  ppu          : Ppu
  /-- The cartridge, or none (R58, R91). -/
  cart         : Option Cartridge
  ctl          : Controllers
  /-- The parameters the core was constructed with (R7). -/
  params       : Params
  deriving DecidableEq, Repr

/-- Why a step can fault: it cannot. "The core has no synchronous exception (fault) of any kind" (R520), so the type has
no constructor; this is as safe as the spec's own statement (log 6). -/
inductive Fault where
  deriving DecidableEq, Repr

/-- Why the model gives no successor (R13). -/
inductive Refusal where
  /-- Raised by an arm of `exec` whose instruction has no meaning yet; safe. No arm of this model raises it. -/
  | notModelled (mnemonic : String)
  /-- Raised by an unassigned opcode under ILLEGAL_OPCODE_POLICY = `refuse` (R368); safe. -/
  | illegalOpcode (opcode : Byte)
  /-- Raised by `powerOn` for a cartridge outside the accepted configurations (R95); no step raises it; safe. -/
  | unsupportedCartridge
  deriving DecidableEq, Repr

/-! ## Reset (R60) -/

/-- The CPU after reset, given what the reset vector reads as (R60, R570). -/
def Cpu.reset (vector : Word) : Cpu :=
  { a := 0x00, x := 0x00, y := 0x00, sp := 0xFD, pc := vector, p := 0x20, countdown := Config.resetCycles
    nmiPending := false }

/-- The PPU after reset: everything but nametable RAM, palette, OAM and the frame buffer takes a fixed value (R60). -/
def Ppu.reset (vram palette oam : Memory) (frameBuffer : Cells 6) : Ppu :=
  { ctrl := 0x00, mask := 0x00, vblank := false, sprite0Hit := false, spriteOverflow := false, oamAddr := 0x00
    v := 0, t := 0, x := 0, w := false, dataBuffer := 0x00, nmiOut := false
    vram := vram, palette := palette, oam := oam, oam2 := Vector.replicate 8 OamEntry.unused
    scanline := 0, dot := 0, frame := 0
    bgNextId := 0, bgNextAttr := 0, bgNextLo := 0, bgNextHi := 0, bgPatLo := 0, bgPatHi := 0, bgAttrLo := 0, bgAttrHi := 0
    spriteCount := 0, sprLo := Vector.replicate 8 0, sprHi := Vector.replicate 8 0, sprite0InLine := false
    frameBuffer := frameBuffer }

/-- The machine right after power-on and reset (R60) for the choice of the OPEN parameters that log 2 names: no
cartridge, every memory all zero, no button held (log 3), the default parameters (log 4). The reset vector is then read
from bring-up RAM and is 0x0000. -/
def State.reset : State :=
  { cpu := Cpu.reset 0x0000, ram := [], clockCounter := 0, bringupRam := [], ppu := Ppu.reset [] [] [] []
    cart := none
    ctl := { strobe := false, shift0 := 0x00, shift1 := 0x00, buttons0 := 0x00, buttons1 := 0x00 }
    params := Params.default }

/-! ## Field updates -/

def State.setA (s : State) (v : Byte) : State := { s with cpu := { s.cpu with a := v } }
def State.setX (s : State) (v : Byte) : State := { s with cpu := { s.cpu with x := v } }
def State.setY (s : State) (v : Byte) : State := { s with cpu := { s.cpu with y := v } }
def State.setSp (s : State) (v : Byte) : State := { s with cpu := { s.cpu with sp := v } }
def State.setPc (s : State) (v : Word) : State := { s with cpu := { s.cpu with pc := v } }
def State.setP (s : State) (v : Byte) : State := { s with cpu := { s.cpu with p := v } }
def State.setCountdown (s : State) (n : Nat) : State := { s with cpu := { s.cpu with countdown := n } }
def State.setNmiPending (s : State) (b : Bool) : State := { s with cpu := { s.cpu with nmiPending := b } }
def State.setRam (s : State) (m : Memory) : State := { s with ram := m }
def State.setClock (s : State) (n : Nat) : State := { s with clockCounter := n }
def State.setBringup (s : State) (m : Memory) : State := { s with bringupRam := m }
def State.setPpu (s : State) (p : Ppu) : State := { s with ppu := p }
def State.setCart (s : State) (c : Option Cartridge) : State := { s with cart := c }
def State.setCtl (s : State) (c : Controllers) : State := { s with ctl := c }

end Sys2Proof.Machine
end

