-- ==== Sys2Proof/Machine/Memory.lean ====
section
/-! DEFINITION. Reading and writing a memory held as a canonical list of cells: the arrays of 10_state.md. -/

namespace Sys2Proof.Machine.Cells

/-- What an index that no entry lists reads as. For the memories whose power-on contents are OPEN (R7, R8) this is the
choice of log 2; for the frame buffer it is the reset value of R60. -/
def unlisted {w : Nat} : BitVec w := 0

/-- The value at an index. -/
def read {w : Nat} : Cells w → Nat → BitVec w
  | [], _ => unlisted
  | (i, u) :: m, k => if k = i then u else read m k

/-- Write a value at an index, keeping the canonical form: a value equal to `unlisted` is held by no entry. -/
def write {w : Nat} : Cells w → Nat → BitVec w → Cells w
  | [], k, u => if u = unlisted then [] else [(k, u)]
  | (i, e) :: m, k, u =>
    if k < i then (if u = unlisted then (i, e) :: m else (k, u) :: (i, e) :: m)
    else if k = i then (if u = unlisted then m else (k, u) :: m)
    else (i, e) :: write m k u

/-- Every entry's index is above `lo`, indexes rise strictly and no entry equals `unlisted`. -/
def risesAbove {w : Nat} : Option Nat → Cells w → Bool
  | _, [] => true
  | lo, (i, u) :: m => (match lo with | none => true | some j => decide (j < i)) && decide (u ≠ unlisted) && risesAbove (some i) m

/-- Every entry lies below `n`: the memory has `n` cells. -/
def within {w : Nat} (m : Cells w) (n : Nat) : Bool := m.all fun c => decide (c.1 < n)

/-- A memory with the given contents from an index on: how a buffer of bytes becomes a memory. -/
def ofList {w : Nat} : Nat → List (BitVec w) → Cells w
  | _, [] => []
  | k, u :: us => if u = unlisted then ofList (k + 1) us else (k, u) :: ofList (k + 1) us

end Sys2Proof.Machine.Cells

namespace Sys2Proof.Machine

/-- The canonical form of a memory: indexes strictly rising, no entry equal to what an unlisted index reads as. -/
def Memory.wf {w : Nat} (m : Cells w) : Bool := Cells.risesAbove none m

end Sys2Proof.Machine
end

