-- ==== Sys2Proof/Machine/PpuBus.lean ====
section
/-! DEFINITION. The PPU address space: rules R100 to R104 of 20_memory.md, with the cartridge's CHR side and bring-up
mode (R91). -/

namespace Sys2Proof.Machine

/-- The nametable mirroring in force: the cartridge's, or horizontal with no cartridge (R91, R103). -/
def mirroringOf : Option Cartridge → Mirroring
  | none => .horizontal
  | some c => c.mirroring

/-- A pattern-table read at `a` in 0x0000..0x1FFF (R101). -/
def chrRead (cart : Option Cartridge) (a : Nat) : Byte :=
  match cart with
  | none => 0x00
  | some c =>
    match c.mapper with
    | .switchableChr => Cells.read c.chr (c.chrBank * Config.chrBankSize + a)
    | .fixed => Cells.read c.chr a

/-- A pattern-table write: it takes effect only when CHR is RAM (R102). -/
def chrWrite (cart : Option Cartridge) (a : Nat) (v : Byte) : Option Cartridge :=
  match cart with
  | none => none
  | some c => if c.chrBanks = 0 then some { c with chr := Cells.write c.chr a v } else some c

/-- Nametable address translation (R103): 12 bits, then the quadrant folded onto page A (0) or B (1). -/
def ntIndex (m : Mirroring) (a : BitVec 14) : Nat :=
  let n := a.toNat % 0x1000
  let q := n / 0x400
  let page := match m with
    | .horizontal => q / 2
    | .vertical => q % 2
  page * 0x400 + n % 0x400

/-- Palette address translation (R104): 5 bits, with 0x10, 0x14, 0x18, 0x1C folded onto 0x00, 0x04, 0x08, 0x0C. -/
def palIndex (a : BitVec 14) : Nat :=
  let p := a.toNat % 0x20
  if p = 0x10 ∨ p = 0x14 ∨ p = 0x18 ∨ p = 0x1C then p - 0x10 else p

/-- `PpuRead` (R100). Its argument is the address already reduced to 14 bits. -/
def ppuRead (cart : Option Cartridge) (p : Ppu) (a : BitVec 14) : Byte :=
  if a.toNat ≤ 0x1FFF then chrRead cart a.toNat
  else if a.toNat ≤ 0x3EFF then Cells.read p.vram (ntIndex (mirroringOf cart) a)
  else Cells.read p.palette (palIndex a)

/-- `PpuWrite` (R100). -/
def ppuWrite (a : BitVec 14) (v : Byte) (s : State) : State :=
  if a.toNat ≤ 0x1FFF then s.setCart (chrWrite s.cart a.toNat v)
  else if a.toNat ≤ 0x3EFF then
    s.setPpu { s.ppu with vram := Cells.write s.ppu.vram (ntIndex (mirroringOf s.cart) a) v }
  else s.setPpu { s.ppu with palette := Cells.write s.ppu.palette (palIndex a) v }

end Sys2Proof.Machine
end

