-- ==== Sys2Proof/Machine/PpuRegs.lean ====
section
/-! DEFINITION. The PPU's eight CPU-visible registers: rules R400 to R415 of 50_ppu_registers.md. -/

namespace Sys2Proof.Machine

open Bits (putField)

/-! ## Effects on the PPU alone -/

/-- `CtrlWrite` (R402). -/
def ctrlWrite (v : Byte) (p : Ppu) : Ppu :=
  { p with ctrl := v, t := putField p.t 10 (v.extractLsb' 0 2) }

/-- What a PPUSTATUS read returns (R404). -/
def statusByte (p : Ppu) : Byte :=
  BitVec.ofBool p.vblank ++ BitVec.ofBool p.sprite0Hit ++ BitVec.ofBool p.spriteOverflow ++ p.dataBuffer.extractLsb' 0 5

/-- The effect of a PPUSTATUS read (R404): VBlank and the write toggle are cleared. -/
def statusReadEffect (p : Ppu) : Ppu := { p with vblank := false, w := false }

/-- `OamDataWrite` (R407). -/
def oamDataWrite (v : Byte) (p : Ppu) : Ppu :=
  { p with oam := Cells.write p.oam p.oamAddr.toNat v, oamAddr := p.oamAddr + 1 }

/-- `ScrollWrite` (R408). -/
def scrollWrite (v : Byte) (p : Ppu) : Ppu :=
  if p.w then
    { p with t := putField (putField p.t 5 (v.extractLsb' 3 5)) 12 (v.extractLsb' 0 3), w := false }
  else
    { p with t := putField p.t 0 (v.extractLsb' 3 5), x := v.extractLsb' 0 3, w := true }

/-- `AddrWrite` (R409). -/
def addrWrite (v : Byte) (p : Ppu) : Ppu :=
  if p.w then
    let t := putField p.t 0 v
    { p with t := t, v := t, w := false }
  else
    { p with t := putField (putField p.t 8 (v.extractLsb' 0 6)) 14 (0 : BitVec 1), w := true }

/-- `IncV` (R412). -/
def incV (p : Ppu) : Ppu := { p with v := p.v + (if p.ctrl.getLsbD 2 then 32 else 1) }

/-- The PPU-bus address of a PPUDATA access: `ppu.v & 0x3FFF` (R410, R411). -/
def dataAddress (p : Ppu) : BitVec 14 := p.v.setWidth 14

/-- What a PPUDATA read returns (R410): the buffer, or the palette byte at once. -/
def dataReadByte (cart : Option Cartridge) (p : Ppu) : Byte :=
  if 0x3F00 ≤ (dataAddress p).toNat then ppuRead cart p (dataAddress p) else p.dataBuffer

/-- The effect of a PPUDATA read (R410): the buffer is refilled from v, then v is incremented. -/
def dataReadEffect (cart : Option Cartridge) (p : Ppu) : Ppu :=
  incV { p with dataBuffer := ppuRead cart p (dataAddress p) }

/-! ## The register window (R401) -/

/-- The value of `PpuRegRead(r)` (R401, R413). -/
def ppuRegReadByte (cart : Option Cartridge) (p : Ppu) (r : Nat) : Byte :=
  match r with
  | 2 => statusByte p
  | 4 => Cells.read p.oam p.oamAddr.toNat
  | 7 => dataReadByte cart p
  | _ => 0x00

/-- The effect of `PpuRegRead(r)` (R401, R406, R413). -/
def ppuRegReadEffect (cart : Option Cartridge) (p : Ppu) (r : Nat) : Ppu :=
  match r with
  | 2 => statusReadEffect p
  | 7 => dataReadEffect cart p
  | _ => p

/-- `PpuDataWrite` (R411). -/
def ppuDataWrite (v : Byte) (s : State) : State :=
  let s := ppuWrite (dataAddress s.ppu) v s
  s.setPpu (incV s.ppu)

/-- `PpuRegWrite(r, v)` (R401). -/
def ppuRegWrite (r : Nat) (v : Byte) (s : State) : State :=
  match r with
  | 0 => s.setPpu (ctrlWrite v s.ppu)
  | 1 => s.setPpu { s.ppu with mask := v }
  | 2 => s
  | 3 => s.setPpu { s.ppu with oamAddr := v }
  | 4 => s.setPpu (oamDataWrite v s.ppu)
  | 5 => s.setPpu (scrollWrite v s.ppu)
  | 6 => s.setPpu (addrWrite v s.ppu)
  | 7 => ppuDataWrite v s
  | _ => s

end Sys2Proof.Machine
end

