-- ==== Sys2Proof/Machine/Bus.lean ====
section
/-! DEFINITION. The CPU bus: the read and write decode of rules R80 and R81, RAM, the cartridge's PRG side, the controller
ports and OAM DMA (R82 to R94, 20_memory.md). A bus read is two functions: the byte it returns and the state it leaves. -/

namespace Sys2Proof.Machine

open Bits (word)

/-! ## Controller ports (R92, R93) -/

/-- The two ports, at 0x4016 and 0x4017. -/
inductive Port where
  | zero
  | one
  deriving DecidableEq, Repr

/-- BUTTONS[n] (R59). -/
def Controllers.buttons (c : Controllers) : Port → Byte
  | .zero => c.buttons0
  | .one => c.buttons1

/-- ctl.shift[n] (R59). -/
def Controllers.shift (c : Controllers) : Port → Byte
  | .zero => c.shift0
  | .one => c.shift1

/-- `ctl.shift[n] <- v`. -/
def Controllers.setShift (c : Controllers) (n : Port) (v : Byte) : Controllers :=
  match n with
  | .zero => { c with shift0 := v }
  | .one => { c with shift1 := v }

/-- `CtlWrite(v)` (R92). -/
def ctlWrite (v : Byte) (c : Controllers) : Controllers :=
  let c := if c.strobe || v.getLsbD 0 then { c with shift0 := c.buttons0, shift1 := c.buttons1 } else c
  { c with strobe := v.getLsbD 0 }

/-- The value of `CtlRead(n)` (R93). -/
def ctlReadByte (c : Controllers) (n : Port) : Byte :=
  let b := if c.strobe then (c.buttons n).getLsbD 7 else (c.shift n).getLsbD 7
  (BitVec.ofBool b).setWidth 8

/-- The effect of `CtlRead(n)` (R93): with the strobe low, the shifter moves up one place and fills with 1. -/
def ctlReadEffect (c : Controllers) (n : Port) : Controllers :=
  if c.strobe then c else c.setShift n ((c.shift n <<< 1) ||| 0x01)

/-! ## The cartridge's PRG side (R88 to R90) -/

/-- The PRG index of a CPU address in 0x8000..0xFFFF (R88). -/
def prgIndex (c : Cartridge) (a : Word) : Nat :=
  match c.prgBanks with
  | .one => a.toNat % Config.prgBankSize
  | .two => a.toNat % (2 * Config.prgBankSize)

/-- `CartCpuWrite` (R89, R90): ignored by the fixed variant; a CHR bank select in the switchable one. -/
def prgWrite (v : Byte) (c : Cartridge) : Cartridge :=
  match c.mapper with
  | .fixed => c
  | .switchableChr => { c with chrBank := v.toNat % max c.chrBanks 1 }

/-! ## Bus reads (R80) -/

/-- What stands behind a CPU address (R80, R81, R113). -/
inductive Target where
  /-- System RAM, by its index (R82). -/
  | ram (i : Nat)
  /-- A PPU register, by its index (R83). -/
  | ppuReg (r : Nat)
  /-- 0x4014 (R85). -/
  | oamDma
  /-- 0x4016 and 0x4017 (R92 to R94). -/
  | port (n : Port)
  /-- The rest of the APU window and the unmapped range: reads 0, ignores writes (R84, R87). -/
  | nothing
  /-- 0x8000 to 0xFFFF: cartridge PRG, or bring-up RAM (R88, R91). -/
  | prg
  deriving DecidableEq, Repr

/-- The decode of a CPU address (R80, R81): the specific addresses come before the window that holds them. -/
def target (a : Word) : Target :=
  if a.toNat ≤ 0x1FFF then .ram (a.toNat % 0x800)
  else if a.toNat ≤ 0x3FFF then .ppuReg (a.toNat % 8)
  else if a.toNat = 0x4014 then .oamDma
  else if a.toNat = 0x4016 then .port .zero
  else if a.toNat = 0x4017 then .port .one
  else if a.toNat ≤ 0x7FFF then .nothing
  else .prg

/-- The byte that `CpuRead(a)` returns (R80). -/
def busRead (a : Word) (s : State) : Byte :=
  match target a with
  | .ram i => Cells.read s.ram i
  | .ppuReg r => ppuRegReadByte s.cart s.ppu r
  | .oamDma => 0x00
  | .port n => ctlReadByte s.ctl n
  | .nothing => 0x00
  | .prg =>
    match s.cart with
    | none => Cells.read s.bringupRam (a.toNat - 0x8000)
    | some c => Cells.read c.prg (prgIndex c a)

/-- The state that `CpuRead(a)` leaves: only PPU registers and controller ports have read side effects (R80, R112). -/
def afterRead (a : Word) (s : State) : State :=
  match target a with
  | .ppuReg r => s.setPpu (ppuRegReadEffect s.cart s.ppu r)
  | .port n => s.setCtl (ctlReadEffect s.ctl n)
  | .ram _ | .oamDma | .nothing | .prg => s

/-! ## OAM DMA (R85, R86) -/

/-- One byte of the copy: `ppu.oam[i] <- CpuRead({page, i})`, with the read's side effects (R85). -/
def dmaByte (page : Byte) (i : Nat) (s : State) : State :=
  let a := word page (BitVec.ofNat 8 i)
  let b := busRead a s
  let s := afterRead a s
  s.setPpu { s.ppu with oam := Cells.write s.ppu.oam i b }

/-- Bytes `i` to `i + n - 1` of the copy, in order. -/
def dmaCopy (page : Byte) : Nat → Nat → State → State
  | 0, _, s => s
  | n + 1, i, s => dmaCopy page n (i + 1) (dmaByte page i s)

/-- `OamDma(page)` (R85): the copy, then the stall added to the countdown (R86). -/
def oamDma (page : Byte) (s : State) : State :=
  let s := dmaCopy page Config.oamSize 0 s
  s.setCountdown (s.cpu.countdown + Config.oamDmaStall)

/-! ## Bus writes (R81) -/

/-- `CpuWrite(a, v)` (R81). -/
def busWrite (a : Word) (v : Byte) (s : State) : State :=
  match target a with
  | .ram i => s.setRam (Cells.write s.ram i v)
  | .ppuReg r => ppuRegWrite r v s
  | .oamDma => oamDma v s
  | .port .zero => s.setCtl (ctlWrite v s.ctl)
  | .port .one => s
  | .nothing => s
  | .prg =>
    match s.cart with
    | none => s.setBringup (Cells.write s.bringupRam (a.toNat - 0x8000) v)
    | some c => s.setCart (some (prgWrite v c))

end Sys2Proof.Machine
end

