-- ==== Sys2Proof/Machine/Flags.lean ====
section
/-! DEFINITION. The status register P: the flags of rule R33 (10_state.md) and every flag computation of
41_load_store_transfer.md to 46_flags_nop.md. -/

namespace Sys2Proof.Machine

/-- The eight flags of P (R33). -/
inductive Flag where
  | c | z | i | d | b | u | v | n
  deriving DecidableEq, Repr

/-- The bit of P that holds a flag (R33). -/
def Flag.bit : Flag → Nat
  | .c => 0
  | .z => 1
  | .i => 2
  | .d => 3
  | .b => 4
  | .u => 5
  | .v => 6
  | .n => 7

/-- `P.f`. -/
def getFlag (f : Flag) (p : Byte) : Bool := p.getLsbD f.bit

/-- `P.f <- value`, the other bits kept. -/
def putFlag (f : Flag) (value : Bool) (p : Byte) : Byte :=
  if value then p ||| ((1 : Byte) <<< f.bit) else p &&& ~~~((1 : Byte) <<< f.bit)

/-- `NZ(r)` (R14, 00_scope.md): N from bit 7, Z from r = 0. -/
def putNZ (r : Byte) (p : Byte) : Byte := putFlag .z (decide (r = 0)) (putFlag .n (r.getLsbD 7) p)

/-- The status byte that PHP and BRK push: `P | 0x30`, Break and Unused set (R302, R334). -/
def pushedByBrk (p : Byte) : Byte := p ||| 0x30

/-- The status byte that NMI entry pushes: Break cleared, Unused set (R524). -/
def pushedByNmi (p : Byte) : Byte := (p &&& ~~~0x10) ||| 0x20

/-- The status that PLP and RTI restore from a pulled byte: Break masked out, Unused forced to 1 (R305, R333). -/
def restored (pulled : Byte) : Byte := (pulled &&& ~~~0x10) ||| 0x20

/-! ## Sums, comparisons and shifts -/

/-- `a + m + carry`, unbounded (R230). -/
def sum (a m : Byte) (carry : Bool) : Nat := a.toNat + m.toNat + carry.toNat

/-- `u8` of that sum. -/
def sumByte (a m : Byte) (carry : Bool) : Byte := BitVec.ofNat 8 (sum a m carry)

/-- `(~(A ^ m) & (A ^ r) & 0x80) != 0`, signed overflow of `a + m` giving `r` (R230). -/
def overflows (a m r : Byte) : Bool := decide ((~~~(a ^^^ m) &&& (a ^^^ r) &&& 0x80) ≠ 0)

/-- The flags of ADC: C carry out, V signed overflow, N and Z of the result (R230). SBC is ADC of `m ^ 0xFF` (R231). -/
def putSum (a m : Byte) (p : Byte) : Byte :=
  let carry := getFlag .c p
  let r := sumByte a m carry
  putNZ r (putFlag .v (overflows a m r) (putFlag .c (decide (sum a m carry > 0xFF)) p))

/-- The compare law (R246): C unsigned reg ≥ m, Z equality, N bit 7 of the difference; V unchanged. -/
def putCompare (reg m : Byte) (p : Byte) : Byte :=
  putFlag .n ((reg - m).getLsbD 7) (putFlag .z (decide (reg = m)) (putFlag .c (decide (m.toNat ≤ reg.toNat)) p))

/-- BIT (R235): Z of A AND m, N and V from bits 7 and 6 of m. -/
def putBit (a m : Byte) (p : Byte) : Byte :=
  putFlag .v (m.getLsbD 6) (putFlag .n (m.getLsbD 7) (putFlag .z (decide (a &&& m = 0)) p))

/-- ASL (R280): 0 shifted in at bit 0. -/
def aslByte (m : Byte) : Byte := m <<< 1

/-- LSR (R281): 0 shifted in at bit 7. -/
def lsrByte (m : Byte) : Byte := m >>> 1

/-- ROL (R282): the old C shifted in at bit 0. -/
def rolByte (carry : Bool) (m : Byte) : Byte := (m <<< 1) ||| (BitVec.ofBool carry).setWidth 8

/-- ROR (R283): the old C shifted in at bit 7. -/
def rorByte (carry : Bool) (m : Byte) : Byte := ((BitVec.ofBool carry).setWidth 8 <<< 7) ||| (m >>> 1)

/-- The flags of a shift or rotate (R284): C the bit shifted out, N and Z of the result. -/
def putShift (out : Bool) (r : Byte) (p : Byte) : Byte := putNZ r (putFlag .c out p)

end Sys2Proof.Machine
end

