-- ==== Sys2Proof/Machine/Ops.lean ====
section
/-! DEFINITION. The named operations over registers and memory that the meanings share: flags of the state, 16-bit reads,
instruction-byte fetch, the stack (44_stack.md), taking an interrupt and returning from one (R333, R334, R524), and the
conditional branch (R320). -/

namespace Sys2Proof.Machine

open Bits (word hiByte loByte zext16 sext16)

/-- What every meaning answers. -/
abbrev Result := Host.Outcome State Fault Refusal

/-- Go on from a next state; a fault or a refusal stays what it is. -/
def andThen (r : Result) (f : State → State) : Result :=
  match r with
  | .next s => .next (f s)
  | .fault e => .fault e
  | .refused e => .refused e

/-! ## Status and countdown -/

/-- Rewrite P. -/
def State.mapP (s : State) (f : Byte → Byte) : State := s.setP (f s.cpu.p)

/-- `P.f`. -/
def State.flag (s : State) (f : Flag) : Bool := getFlag f s.cpu.p

/-- `countdown <- countdown + n`. -/
def State.addCycles (s : State) (n : Nat) : State := s.setCountdown (s.cpu.countdown + n)

/-! ## 16-bit reads and instruction bytes -/

/-- `MemRead(a, 2)` (R12): the byte at `a` is read first and is the low byte. -/
def readWord (a : Word) (s : State) : Word := word (busRead (a + 1) (afterRead a s)) (busRead a s)

/-- The state `MemRead(a, 2)` leaves. -/
def afterReadWord (a : Word) (s : State) : State := afterRead (a + 1) (afterRead a s)

/-- The byte `FetchByte()` returns (R170). -/
def fetchByte (s : State) : Byte := busRead s.cpu.pc s

/-- The state `FetchByte()` leaves: PC has moved past the byte (R32, R170). -/
def afterFetch (s : State) : State := (afterRead s.cpu.pc s).setPc (s.cpu.pc + 1)

/-! ## The stack (R300, R301) -/

/-- The address SP designates: `0x0100 | zext_16(SP)` (R31). -/
def stackAddress (sp : Byte) : Word := 0x0100 ||| zext16 sp

/-- `Push(v8)` (R300). -/
def push (v : Byte) (s : State) : State :=
  let s := busWrite (stackAddress s.cpu.sp) v s
  s.setSp (s.cpu.sp - 1)

/-- `Push16(v16)` (R300): the high byte first. -/
def push16 (v : Word) (s : State) : State := push (loByte v) (push (hiByte v) s)

/-- The byte `Pull()` returns (R301). -/
def pulled (s : State) : Byte := busRead (stackAddress (s.cpu.sp + 1)) s

/-- The state `Pull()` leaves (R301). -/
def afterPull (s : State) : State :=
  let s := s.setSp (s.cpu.sp + 1)
  afterRead (stackAddress s.cpu.sp) s

/-- The word `Pull16()` returns (R301). -/
def pulled16 (s : State) : Word := word (pulled (afterPull s)) (pulled s)

/-- The state `Pull16()` leaves. -/
def afterPull16 (s : State) : State := afterPull (afterPull s)

/-! ## Interrupt entry and return -/

/-- Taking an interrupt, the sequence BRK and NMI share (R334, R524, R521): push the return address, push a status byte,
set I, load PC from the vector. -/
def takeInterrupt (returnTo : Word) (status : Byte) (vector : Word) (s : State) : State :=
  let s := push status (push16 returnTo s)
  let s := s.mapP (putFlag .i true)
  (afterReadWord vector s).setPc (readWord vector s)

/-- Returning from one (R333, R529): P from the stack with B masked out and U forced to 1, then PC as pushed. -/
def returnFromInterrupt (s : State) : State :=
  let p := restored (pulled s)
  let s := (afterPull s).setP p
  (afterPull16 s).setPc (pulled16 s)

/-- The NMI vector (R528). -/
def nmiVector : Word := 0xFFFA
/-- The reset vector (R528). -/
def resetVector : Word := 0xFFFC
/-- The IRQ/BRK vector (R528). -/
def brkVector : Word := 0xFFFE

/-- `EnterNMI()` (R524). -/
def enterNmi (s : State) : State :=
  let s := s.setNmiPending false
  let s := takeInterrupt s.cpu.pc (pushedByNmi s.cpu.p) nmiVector s
  s.setCountdown Config.nmiCycles

/-! ## The conditional branch (R320) -/

/-- The branch target `u16(PC + sext_16(op8))` (R176, R320). -/
def branchTarget (op8 : Byte) (s : State) : Word := s.cpu.pc + sext16 op8

/-- The cycles a taken branch adds: 1, and 1 more if the target lies in another page (R320). -/
def branchCycles (op8 : Byte) (s : State) : Nat :=
  if s.params.branchPenalty then (if hiByte (branchTarget op8 s) ≠ hiByte s.cpu.pc then 2 else 1) else 0

/-- `Branch(cond)` (R320). -/
def branch (cond : Bool) (op8 : Byte) (s : State) : State :=
  if cond then (s.addCycles (branchCycles op8 s)).setPc (branchTarget op8 s) else s

end Sys2Proof.Machine
end

