-- ==== Sys2Proof/Syntax.lean ====
section
/-! DEFINITION. The instruction set as syntax: one constructor of `Instr` per mnemonic of spec/opcode_table.json, with
its operand form and operand bytes as arguments, so that every row of the table is one constructor at one form (log 5).
An operand form is one of the 12 addressing modes of rules R171 to R182 (40_addressing_modes.md). -/

namespace Sys2Proof

/-- The addressing modes that name a byte of memory, each with the operand bytes that follow the opcode (R140, R141). -/
inductive MemMode where
  /-- ZP0: zero page (R173). -/
  | zp0 (op8 : Byte)
  /-- ZPX: zero page indexed by X (R174). -/
  | zpx (op8 : Byte)
  /-- ZPY: zero page indexed by Y (R175). -/
  | zpy (op8 : Byte)
  /-- ABS: absolute (R177). -/
  | abs (addr : Word)
  /-- ABX: absolute indexed by X (R178). -/
  | abx (addr : Word)
  /-- ABY: absolute indexed by Y (R179). -/
  | aby (addr : Word)
  /-- IZX: zero-page pointer pre-indexed by X (R181). -/
  | izx (op8 : Byte)
  /-- IZY: zero-page pointer post-indexed by Y (R182). -/
  | izy (op8 : Byte)
  deriving DecidableEq, Repr

/-- The operand of an instruction that reads a value: IMM (R172) or a byte of memory. -/
inductive Src where
  | imm (value : Byte)
  | mem (mode : MemMode)
  deriving DecidableEq, Repr

/-- The operand of a read-modify-write instruction: A (mode IMP of the shifts, R171) or a byte of memory. -/
inductive Rmw where
  | acc
  | mem (mode : MemMode)
  deriving DecidableEq, Repr

/-- The operand of JMP: ABS (R177) or IND (R180). -/
inductive JumpTarget where
  | abs (target : Word)
  | ind (pointer : Word)
  deriving DecidableEq, Repr

/-- The instruction set (R145, R146), in the order of 41_load_store_transfer.md to 46_flags_nop.md. -/
inductive Instr where
  /-- LDA (R200). -/
  | lda (o : Src)
  /-- LDX (R201). -/
  | ldx (o : Src)
  /-- LDY (R202). -/
  | ldy (o : Src)
  /-- STA (R203). -/
  | sta (o : MemMode)
  /-- STX (R204). -/
  | stx (o : MemMode)
  /-- STY (R205). -/
  | sty (o : MemMode)
  /-- TAX (R206). -/
  | tax
  /-- TAY (R207). -/
  | tay
  /-- TXA (R208). -/
  | txa
  /-- TYA (R209). -/
  | tya
  /-- TSX (R210). -/
  | tsx
  /-- TXS (R211). -/
  | txs
  /-- ADC (R230). -/
  | adc (o : Src)
  /-- SBC (R231). -/
  | sbc (o : Src)
  /-- AND (R232). -/
  | and (o : Src)
  /-- ORA (R233). -/
  | ora (o : Src)
  /-- EOR (R234). -/
  | eor (o : Src)
  /-- BIT (R235). -/
  | bit (o : MemMode)
  /-- CMP (R236). -/
  | cmp (o : Src)
  /-- CPX (R237). -/
  | cpx (o : Src)
  /-- CPY (R238). -/
  | cpy (o : Src)
  /-- INC (R239). -/
  | inc (o : MemMode)
  /-- DEC (R240). -/
  | dec (o : MemMode)
  /-- INX (R241). -/
  | inx
  /-- INY (R242). -/
  | iny
  /-- DEX (R243). -/
  | dex
  /-- DEY (R244). -/
  | dey
  /-- ASL (R280). -/
  | asl (o : Rmw)
  /-- LSR (R281). -/
  | lsr (o : Rmw)
  /-- ROL (R282). -/
  | rol (o : Rmw)
  /-- ROR (R283). -/
  | ror (o : Rmw)
  /-- PHP (R302). -/
  | php
  /-- PHA (R303). -/
  | pha
  /-- PLA (R304). -/
  | pla
  /-- PLP (R305). -/
  | plp
  /-- BCC (R321); REL, R176. -/
  | bcc (op8 : Byte)
  /-- BCS (R322); REL, R176. -/
  | bcs (op8 : Byte)
  /-- BEQ (R323); REL, R176. -/
  | beq (op8 : Byte)
  /-- BMI (R324); REL, R176. -/
  | bmi (op8 : Byte)
  /-- BNE (R325); REL, R176. -/
  | bne (op8 : Byte)
  /-- BPL (R326); REL, R176. -/
  | bpl (op8 : Byte)
  /-- BVC (R327); REL, R176. -/
  | bvc (op8 : Byte)
  /-- BVS (R328); REL, R176. -/
  | bvs (op8 : Byte)
  /-- JMP (R329, R330). -/
  | jmp (o : JumpTarget)
  /-- JSR (R331). -/
  | jsr (target : Word)
  /-- RTS (R332). -/
  | rts
  /-- RTI (R333). -/
  | rti
  /-- BRK (R334). -/
  | brk
  /-- CLC (R360). -/
  | clc
  /-- SEC (R361). -/
  | sec
  /-- CLI (R362). -/
  | cli
  /-- SEI (R363). -/
  | sei
  /-- CLD (R364). -/
  | cld
  /-- SED (R365). -/
  | sed
  /-- CLV (R366). -/
  | clv
  /-- NOP (R367). -/
  | nop
  /-- `???`: the default dispatch entry of the 105 unassigned opcodes (R146, R368). -/
  | unassigned (opcode : Byte)
  deriving DecidableEq, Repr

end Sys2Proof
end

