-- ==== Sys2Proof/Machine/Operands.lean ====
section
/-! DEFINITION. The operand forms: the addressing-mode routines of rules R171 to R182, `Load` and `Store` of R183 and the
optional page-cross penalty of R184 (40_addressing_modes.md). The operand bytes are already in the instruction; PC is past
them. -/

namespace Sys2Proof.Machine

open Bits (word hiByte loByte zext16)

/-! ## Effective addresses (R173 to R182) -/

/-- The zero-page pointer of IZX (R181) and IZY (R182): low byte at `p`, high byte at `u8(p + 1)`. -/
def zeroPagePointer (p : Byte) (s : State) : Word :=
  word (busRead (zext16 (p + 1)) (afterRead (zext16 p) s)) (busRead (zext16 p) s)

/-- The state that reading the pointer leaves. -/
def afterPointer (p : Byte) (s : State) : State := afterRead (zext16 (p + 1)) (afterRead (zext16 p) s)

/-- The address before the index is added, for the modes whose sum can leave its page (R178, R179, R182, R184). -/
def baseAddress (m : MemMode) (s : State) : Word :=
  match m with
  | .zp0 b => zext16 b
  | .zpx b => zext16 (b + s.cpu.x)
  | .zpy b => zext16 (b + s.cpu.y)
  | .abs w => w
  | .abx w => w
  | .aby w => w
  | .izx b => zeroPagePointer (b + s.cpu.x) s
  | .izy b => zeroPagePointer b s

/-- The effective address (R173 to R179, R181, R182). -/
def ea (m : MemMode) (s : State) : Word :=
  match m with
  | .zp0 _ | .zpx _ | .zpy _ | .abs _ | .izx _ => baseAddress m s
  | .abx _ => baseAddress m s + zext16 s.cpu.x
  | .aby _ | .izy _ => baseAddress m s + zext16 s.cpu.y

/-- The state that computing the effective address leaves: the pointer reads of IZX and IZY go through the bus. -/
def afterEa (m : MemMode) (s : State) : State :=
  match m with
  | .izx b => afterPointer (b + s.cpu.x) s
  | .izy b => afterPointer b s
  | .zp0 _ | .zpx _ | .zpy _ | .abs _ | .abx _ | .aby _ => s

/-- The pointer of IND (R180): the high byte's address does not carry into the page. -/
def indirectTarget (ptr : Word) (s : State) : Word :=
  word (busRead (word (hiByte ptr) (loByte ptr + 1)) (afterRead ptr s)) (busRead ptr s)

/-- The state that reading the IND pointer leaves. -/
def afterIndirect (ptr : Word) (s : State) : State :=
  afterRead (word (hiByte ptr) (loByte ptr + 1)) (afterRead ptr s)

/-! ## `Load` and `Store` (R183) -/

/-- A byte read at an effective address. -/
def memValue (m : MemMode) (s : State) : Byte := busRead (ea m s) (afterEa m s)

/-- The state that read leaves. -/
def afterMem (m : MemMode) (s : State) : State := afterRead (ea m s) (afterEa m s)

/-- The page-cross penalty of a read (R184): none by default; with PAGE_CROSS_PENALTY, 1 cycle when the indexed sum of
ABX, ABY or IZY leaves the page. -/
def pageCrossCycles (m : MemMode) (s : State) : Nat :=
  if s.params.pageCrossPenalty && decide (hiByte (baseAddress m s) ≠ hiByte (ea m s)) then 1 else 0

/-- The value `Load(o)` returns for an operand that is only read. -/
def srcValue (o : Src) (s : State) : Byte :=
  match o with
  | .imm v => v
  | .mem m => memValue m s

/-- The state `Load(o)` leaves, with the penalty of R184. -/
def afterSrc (o : Src) (s : State) : State :=
  match o with
  | .imm _ => s
  | .mem m => (afterMem m s).addCycles (pageCrossCycles m s)

/-- `Store(o, v)` to an effective address: no read of the address is made. -/
def store (m : MemMode) (v : Byte) (s : State) : State := busWrite (ea m s) v (afterEa m s)

/-- The value `Load(o)` returns for a read-modify-write operand. -/
def rmwValue (o : Rmw) (s : State) : Byte :=
  match o with
  | .acc => s.cpu.a
  | .mem m => memValue m s

/-- The state after that `Load`, the flags rewritten by `f`, and `Store(o, r)`: one read, then one write (R183, R284). The
mode routine runs once, before the read. -/
def rmwStore (o : Rmw) (f : Byte → Byte) (r : Byte) (s : State) : State :=
  match o with
  | .acc => (s.setA r).mapP f
  | .mem m => (busWrite (ea m s) r (afterMem m s)).mapP f

end Sys2Proof.Machine
end

