-- ==== Sys2Proof/Machine/ArithLogic.lean ====
section
/-! DEFINITION. Arithmetic, logic, compare, increment and decrement: 42_arithmetic_logic.md. -/

namespace Sys2Proof.Machine

/-- A <- A + m + C with the flags of R230; SBC calls it with the complemented operand (R231). -/
def addToA (m : Byte) (s : State) : State :=
  (s.setA (sumByte s.cpu.a m (s.flag .c))).mapP (putSum s.cpu.a m)

/-- A <- r with N and Z of r: the shape of AND, ORA and EOR (R232 to R234). -/
def logicToA (r : Byte) (s : State) : State := (s.setA r).mapP (putNZ r)

/-- ADC (R230). -/
def execAdc (o : Src) (s : State) : Result := .next (addToA (srcValue o s) (afterSrc o s))

/-- SBC (R231). -/
def execSbc (o : Src) (s : State) : Result := .next (addToA (srcValue o s ^^^ 0xFF) (afterSrc o s))

/-- AND (R232). -/
def execAnd (o : Src) (s : State) : Result := .next (logicToA (s.cpu.a &&& srcValue o s) (afterSrc o s))

/-- ORA (R233). -/
def execOra (o : Src) (s : State) : Result := .next (logicToA (s.cpu.a ||| srcValue o s) (afterSrc o s))

/-- EOR (R234). -/
def execEor (o : Src) (s : State) : Result := .next (logicToA (s.cpu.a ^^^ srcValue o s) (afterSrc o s))

/-- BIT (R235): A is unchanged. -/
def execBit (o : MemMode) (s : State) : Result := .next ((afterMem o s).mapP (putBit s.cpu.a (memValue o s)))

/-- CMP (R236). -/
def execCmp (o : Src) (s : State) : Result := .next ((afterSrc o s).mapP (putCompare s.cpu.a (srcValue o s)))

/-- CPX (R237). -/
def execCpx (o : Src) (s : State) : Result := .next ((afterSrc o s).mapP (putCompare s.cpu.x (srcValue o s)))

/-- CPY (R238). -/
def execCpy (o : Src) (s : State) : Result := .next ((afterSrc o s).mapP (putCompare s.cpu.y (srcValue o s)))

/-- INC (R239): one read, one write. -/
def execInc (o : MemMode) (s : State) : Result :=
  .next (rmwStore (.mem o) (putNZ (memValue o s + 1)) (memValue o s + 1) s)

/-- DEC (R240): one read, one write. -/
def execDec (o : MemMode) (s : State) : Result :=
  .next (rmwStore (.mem o) (putNZ (memValue o s - 1)) (memValue o s - 1) s)

/-- INX (R241). -/
def execInx (s : State) : Result := .next ((s.setX (s.cpu.x + 1)).mapP (putNZ (s.cpu.x + 1)))

/-- INY (R242). -/
def execIny (s : State) : Result := .next ((s.setY (s.cpu.y + 1)).mapP (putNZ (s.cpu.y + 1)))

/-- DEX (R243). -/
def execDex (s : State) : Result := .next ((s.setX (s.cpu.x - 1)).mapP (putNZ (s.cpu.x - 1)))

/-- DEY (R244). -/
def execDey (s : State) : Result := .next ((s.setY (s.cpu.y - 1)).mapP (putNZ (s.cpu.y - 1)))

end Sys2Proof.Machine
end

