-- ==== Sys2Proof/Machine/Control.lean ====
section
/-! DEFINITION. Branches, jumps, calls, returns and BRK: 45_control_transfer.md. PC on entry is the address past the
instruction's last byte. -/

namespace Sys2Proof.Machine

/-- BCC (R321). -/
def execBcc (op8 : Byte) (s : State) : Result := .next (branch (!s.flag .c) op8 s)

/-- BCS (R322). -/
def execBcs (op8 : Byte) (s : State) : Result := .next (branch (s.flag .c) op8 s)

/-- BEQ (R323). -/
def execBeq (op8 : Byte) (s : State) : Result := .next (branch (s.flag .z) op8 s)

/-- BMI (R324). -/
def execBmi (op8 : Byte) (s : State) : Result := .next (branch (s.flag .n) op8 s)

/-- BNE (R325). -/
def execBne (op8 : Byte) (s : State) : Result := .next (branch (!s.flag .z) op8 s)

/-- BPL (R326). -/
def execBpl (op8 : Byte) (s : State) : Result := .next (branch (!s.flag .n) op8 s)

/-- BVC (R327). -/
def execBvc (op8 : Byte) (s : State) : Result := .next (branch (!s.flag .v) op8 s)

/-- BVS (R328). -/
def execBvs (op8 : Byte) (s : State) : Result := .next (branch (s.flag .v) op8 s)

/-- JMP, absolute (R329) and indirect (R330). -/
def execJmp (o : JumpTarget) (s : State) : Result :=
  match o with
  | .abs target => .next (s.setPc target)
  | .ind ptr => .next ((afterIndirect ptr s).setPc (indirectTarget ptr s))

/-- JSR (R331): the address of its last byte is pushed. -/
def execJsr (target : Word) (s : State) : Result := .next ((push16 (s.cpu.pc - 1) s).setPc target)

/-- RTS (R332): the pulled address, incremented. -/
def execRts (s : State) : Result := .next ((afterPull16 s).setPc (pulled16 s + 1))

/-- RTI (R333). -/
def execRti (s : State) : Result := .next (returnFromInterrupt s)

/-- BRK (R334): BRK's address + 2 is pushed, with B and U set in the status byte. -/
def execBrk (s : State) : Result :=
  .next (takeInterrupt (s.cpu.pc + 1) (pushedByBrk s.cpu.p) brkVector s)

end Sys2Proof.Machine
end

