-- ==== Sys2Proof/Machine/FlagOps.lean ====
section
/-! DEFINITION. Flag set and clear, NOP and the unassigned opcodes: 46_flags_nop.md. -/

namespace Sys2Proof.Machine

/-- CLC (R360). -/
def execClc (s : State) : Result := .next (s.mapP (putFlag .c false))

/-- SEC (R361). -/
def execSec (s : State) : Result := .next (s.mapP (putFlag .c true))

/-- CLI (R362). -/
def execCli (s : State) : Result := .next (s.mapP (putFlag .i false))

/-- SEI (R363). -/
def execSei (s : State) : Result := .next (s.mapP (putFlag .i true))

/-- CLD (R364). -/
def execCld (s : State) : Result := .next (s.mapP (putFlag .d false))

/-- SED (R365). -/
def execSed (s : State) : Result := .next (s.mapP (putFlag .d true))

/-- CLV (R366). -/
def execClv (s : State) : Result := .next (s.mapP (putFlag .v false))

/-- NOP (R367): PC is already past the opcode. -/
def execNop (s : State) : Result := .next s

/-- An unassigned opcode (R368): a no-op, or a refusal where ILLEGAL_OPCODE_POLICY = `refuse` was chosen (D43). -/
def execUnassigned (opcode : Byte) (s : State) : Result :=
  match s.params.illegalPolicy with
  | .nop => .next s
  | .refuse => .refused (.illegalOpcode opcode)

end Sys2Proof.Machine
end

