-- ==== Sys2Proof/Machine/LoadStore.lean ====
section
/-! DEFINITION. Loads, stores and register transfers: 41_load_store_transfer.md. -/

namespace Sys2Proof.Machine

/-- LDA (R200). -/
def execLda (o : Src) (s : State) : Result :=
  .next (((afterSrc o s).setA (srcValue o s)).mapP (putNZ (srcValue o s)))

/-- LDX (R201). -/
def execLdx (o : Src) (s : State) : Result :=
  .next (((afterSrc o s).setX (srcValue o s)).mapP (putNZ (srcValue o s)))

/-- LDY (R202). -/
def execLdy (o : Src) (s : State) : Result :=
  .next (((afterSrc o s).setY (srcValue o s)).mapP (putNZ (srcValue o s)))

/-- STA (R203). -/
def execSta (o : MemMode) (s : State) : Result := .next (store o s.cpu.a s)

/-- STX (R204). -/
def execStx (o : MemMode) (s : State) : Result := .next (store o s.cpu.x s)

/-- STY (R205). -/
def execSty (o : MemMode) (s : State) : Result := .next (store o s.cpu.y s)

/-- TAX (R206). -/
def execTax (s : State) : Result := .next ((s.setX s.cpu.a).mapP (putNZ s.cpu.a))

/-- TAY (R207). -/
def execTay (s : State) : Result := .next ((s.setY s.cpu.a).mapP (putNZ s.cpu.a))

/-- TXA (R208). -/
def execTxa (s : State) : Result := .next ((s.setA s.cpu.x).mapP (putNZ s.cpu.x))

/-- TYA (R209). -/
def execTya (s : State) : Result := .next ((s.setA s.cpu.y).mapP (putNZ s.cpu.y))

/-- TSX (R210). -/
def execTsx (s : State) : Result := .next ((s.setX s.cpu.sp).mapP (putNZ s.cpu.sp))

/-- TXS (R211): no flag is written. -/
def execTxs (s : State) : Result := .next (s.setSp s.cpu.x)

end Sys2Proof.Machine
end

