-- ==== Sys2Proof/Machine/Shift.lean ====
section
/-! DEFINITION. Shifts and rotates, on A or on memory: 43_shift_rotate.md. -/

namespace Sys2Proof.Machine

/-- ASL (R280). -/
def execAsl (o : Rmw) (s : State) : Result :=
  let m := rmwValue o s
  .next (rmwStore o (putShift (m.getLsbD 7) (aslByte m)) (aslByte m) s)

/-- LSR (R281). -/
def execLsr (o : Rmw) (s : State) : Result :=
  let m := rmwValue o s
  .next (rmwStore o (putShift (m.getLsbD 0) (lsrByte m)) (lsrByte m) s)

/-- ROL (R282): C of the result is the value before the instruction. -/
def execRol (o : Rmw) (s : State) : Result :=
  let m := rmwValue o s
  let r := rolByte (s.flag .c) m
  .next (rmwStore o (putShift (m.getLsbD 7) r) r s)

/-- ROR (R283): C of the result is the value before the instruction. -/
def execRor (o : Rmw) (s : State) : Result :=
  let m := rmwValue o s
  let r := rorByte (s.flag .c) m
  .next (rmwStore o (putShift (m.getLsbD 0) r) r s)

end Sys2Proof.Machine
end

