-- ==== Sys2Proof/Machine/Stack.lean ====
section
/-! DEFINITION. Stack instructions: 44_stack.md. -/

namespace Sys2Proof.Machine

/-- PHP (R302): Break and Unused are set in the pushed copy; P itself is unchanged. -/
def execPhp (s : State) : Result := .next (push (pushedByBrk s.cpu.p) s)

/-- PHA (R303). -/
def execPha (s : State) : Result := .next (push s.cpu.a s)

/-- PLA (R304). -/
def execPla (s : State) : Result := .next (((afterPull s).setA (pulled s)).mapP (putNZ (pulled s)))

/-- PLP (R305). -/
def execPlp (s : State) : Result := .next ((afterPull s).setP (restored (pulled s)))

end Sys2Proof.Machine
end

