-- ==== Sys2Proof/WellFormed.lean ====
section
/-! DEFINITION. Which terms of `Instr` the opcode table encodes: for each mnemonic the operand forms that have a row in
the per-opcode list of rule R145 (30_encoding.md), and for `???` the 105 opcodes of rule R146. -/

namespace Sys2Proof

/-- The addressing modes as bare names (R140). -/
inductive ModeName where
  | imp | imm | zp0 | zpx | zpy | rel | abs | abx | aby | ind | izx | izy
  deriving DecidableEq, Repr

def MemMode.name : MemMode → ModeName
  | .zp0 _ => .zp0
  | .zpx _ => .zpx
  | .zpy _ => .zpy
  | .abs _ => .abs
  | .abx _ => .abx
  | .aby _ => .aby
  | .izx _ => .izx
  | .izy _ => .izy

def Src.name : Src → ModeName
  | .imm _ => .imm
  | .mem m => m.name

def Rmw.name : Rmw → ModeName
  | .acc => .imp
  | .mem m => m.name

def JumpTarget.name : JumpTarget → ModeName
  | .abs _ => .abs
  | .ind _ => .ind

/-- The eight modes of the accumulator group: LDA, ADC, SBC, AND, ORA, EOR, CMP (R145). -/
def accumulatorModes : List ModeName := [.imm, .zp0, .zpx, .abs, .abx, .aby, .izx, .izy]

/-- The 105 unassigned opcodes of R146. -/
def unassignedOpcodes : List Nat :=
  [0x02, 0x03, 0x04, 0x07, 0x0B, 0x0C, 0x0F, 0x12, 0x13, 0x14, 0x17, 0x1A, 0x1B, 0x1C, 0x1F,
   0x22, 0x23, 0x27, 0x2B, 0x2F, 0x32, 0x33, 0x34, 0x37, 0x3A, 0x3B, 0x3C, 0x3F] ++
  [0x42, 0x43, 0x44, 0x47, 0x4B, 0x4F, 0x52, 0x53, 0x54, 0x57, 0x5A, 0x5B, 0x5C, 0x5F,
   0x62, 0x63, 0x64, 0x67, 0x6B, 0x6F, 0x72, 0x73, 0x74, 0x77, 0x7A, 0x7B, 0x7C, 0x7F] ++
  [0x80, 0x82, 0x83, 0x87, 0x89, 0x8B, 0x8F, 0x92, 0x93, 0x97, 0x9B, 0x9C, 0x9E, 0x9F,
   0xA3, 0xA7, 0xAB, 0xAF, 0xB2, 0xB3, 0xB7, 0xBB, 0xBF] ++
  [0xC2, 0xC3, 0xC7, 0xCB, 0xCF, 0xD2, 0xD3, 0xD4, 0xD7, 0xDA, 0xDB, 0xDC, 0xDF,
   0xE2, 0xE3, 0xE7, 0xEB, 0xEF, 0xF2, 0xF3, 0xF4, 0xF7, 0xFA, 0xFB, 0xFC, 0xFF]

/-- The instruction has a row in the opcode table (R145, R146). -/
def Instr.wellFormed : Instr → Bool
  | .lda o => o.name ∈ accumulatorModes
  | .ldx o => o.name ∈ [ModeName.imm, .zp0, .zpy, .abs, .aby]
  | .ldy o => o.name ∈ [ModeName.imm, .zp0, .zpx, .abs, .abx]
  | .sta o => o.name ∈ [ModeName.zp0, .zpx, .abs, .abx, .aby, .izx, .izy]
  | .stx o => o.name ∈ [ModeName.zp0, .zpy, .abs]
  | .sty o => o.name ∈ [ModeName.zp0, .zpx, .abs]
  | .tax | .tay | .txa | .tya | .tsx | .txs => true
  | .adc o => o.name ∈ accumulatorModes
  | .sbc o => o.name ∈ accumulatorModes
  | .and o => o.name ∈ accumulatorModes
  | .ora o => o.name ∈ accumulatorModes
  | .eor o => o.name ∈ accumulatorModes
  | .bit o => o.name ∈ [ModeName.zp0, .abs]
  | .cmp o => o.name ∈ accumulatorModes
  | .cpx o => o.name ∈ [ModeName.imm, .zp0, .abs]
  | .cpy o => o.name ∈ [ModeName.imm, .zp0, .abs]
  | .inc o => o.name ∈ [ModeName.zp0, .zpx, .abs, .abx]
  | .dec o => o.name ∈ [ModeName.zp0, .zpx, .abs, .abx]
  | .inx | .iny | .dex | .dey => true
  | .asl o => o.name ∈ [ModeName.imp, .zp0, .zpx, .abs, .abx]
  | .lsr o => o.name ∈ [ModeName.imp, .zp0, .zpx, .abs, .abx]
  | .rol o => o.name ∈ [ModeName.imp, .zp0, .zpx, .abs, .abx]
  | .ror o => o.name ∈ [ModeName.imp, .zp0, .zpx, .abs, .abx]
  | .php | .pha | .pla | .plp => true
  | .bcc _ | .bcs _ | .beq _ | .bmi _ | .bne _ | .bpl _ | .bvc _ | .bvs _ => true
  | .jmp _ | .jsr _ | .rts | .rti | .brk => true
  | .clc | .sec | .cli | .sei | .cld | .sed | .clv | .nop => true
  | .unassigned opcode => opcode.toNat ∈ unassignedOpcodes

end Sys2Proof
end

