-- ==== Sys2Proof/Decode.lean ====
section
/-! DEFINITION. The decoder (the dispatch table of rule R145 and the default entry of rule R146, 30_encoding.md), the
base cycle count of every entry, and the encoder, written from the Encoding lines of 41_load_store_transfer.md to
46_flags_nop.md. -/

namespace Sys2Proof

open Bits (word hiByte loByte)

/-! ## The dispatch table -/

/-- The dispatch entry of an opcode byte, with its operand bytes: the grid of R145 row by row, and R146 for every byte
the grid leaves unassigned. `b1` and `b2` are the bytes after the opcode; an entry whose mode has fewer operand bytes
(R140) does not look at the others. A 16-bit operand has its low byte first (R141). Every byte decodes (R142). -/
def dispatch (opcode b1 b2 : Byte) : Instr :=
  match opcode.toNat with
  | 0x00 => .brk
  | 0x01 => .ora (.mem (.izx b1))
  | 0x05 => .ora (.mem (.zp0 b1))
  | 0x06 => .asl (.mem (.zp0 b1))
  | 0x08 => .php
  | 0x09 => .ora (.imm b1)
  | 0x0A => .asl .acc
  | 0x0D => .ora (.mem (.abs (word b2 b1)))
  | 0x0E => .asl (.mem (.abs (word b2 b1)))
  | 0x10 => .bpl b1
  | 0x11 => .ora (.mem (.izy b1))
  | 0x15 => .ora (.mem (.zpx b1))
  | 0x16 => .asl (.mem (.zpx b1))
  | 0x18 => .clc
  | 0x19 => .ora (.mem (.aby (word b2 b1)))
  | 0x1D => .ora (.mem (.abx (word b2 b1)))
  | 0x1E => .asl (.mem (.abx (word b2 b1)))
  | 0x20 => .jsr (word b2 b1)
  | 0x21 => .and (.mem (.izx b1))
  | 0x24 => .bit (.zp0 b1)
  | 0x25 => .and (.mem (.zp0 b1))
  | 0x26 => .rol (.mem (.zp0 b1))
  | 0x28 => .plp
  | 0x29 => .and (.imm b1)
  | 0x2A => .rol .acc
  | 0x2C => .bit (.abs (word b2 b1))
  | 0x2D => .and (.mem (.abs (word b2 b1)))
  | 0x2E => .rol (.mem (.abs (word b2 b1)))
  | 0x30 => .bmi b1
  | 0x31 => .and (.mem (.izy b1))
  | 0x35 => .and (.mem (.zpx b1))
  | 0x36 => .rol (.mem (.zpx b1))
  | 0x38 => .sec
  | 0x39 => .and (.mem (.aby (word b2 b1)))
  | 0x3D => .and (.mem (.abx (word b2 b1)))
  | 0x3E => .rol (.mem (.abx (word b2 b1)))
  | 0x40 => .rti
  | 0x41 => .eor (.mem (.izx b1))
  | 0x45 => .eor (.mem (.zp0 b1))
  | 0x46 => .lsr (.mem (.zp0 b1))
  | 0x48 => .pha
  | 0x49 => .eor (.imm b1)
  | 0x4A => .lsr .acc
  | 0x4C => .jmp (.abs (word b2 b1))
  | 0x4D => .eor (.mem (.abs (word b2 b1)))
  | 0x4E => .lsr (.mem (.abs (word b2 b1)))
  | 0x50 => .bvc b1
  | 0x51 => .eor (.mem (.izy b1))
  | 0x55 => .eor (.mem (.zpx b1))
  | 0x56 => .lsr (.mem (.zpx b1))
  | 0x58 => .cli
  | 0x59 => .eor (.mem (.aby (word b2 b1)))
  | 0x5D => .eor (.mem (.abx (word b2 b1)))
  | 0x5E => .lsr (.mem (.abx (word b2 b1)))
  | 0x60 => .rts
  | 0x61 => .adc (.mem (.izx b1))
  | 0x65 => .adc (.mem (.zp0 b1))
  | 0x66 => .ror (.mem (.zp0 b1))
  | 0x68 => .pla
  | 0x69 => .adc (.imm b1)
  | 0x6A => .ror .acc
  | 0x6C => .jmp (.ind (word b2 b1))
  | 0x6D => .adc (.mem (.abs (word b2 b1)))
  | 0x6E => .ror (.mem (.abs (word b2 b1)))
  | 0x70 => .bvs b1
  | 0x71 => .adc (.mem (.izy b1))
  | 0x75 => .adc (.mem (.zpx b1))
  | 0x76 => .ror (.mem (.zpx b1))
  | 0x78 => .sei
  | 0x79 => .adc (.mem (.aby (word b2 b1)))
  | 0x7D => .adc (.mem (.abx (word b2 b1)))
  | 0x7E => .ror (.mem (.abx (word b2 b1)))
  | 0x81 => .sta (.izx b1)
  | 0x84 => .sty (.zp0 b1)
  | 0x85 => .sta (.zp0 b1)
  | 0x86 => .stx (.zp0 b1)
  | 0x88 => .dey
  | 0x8A => .txa
  | 0x8C => .sty (.abs (word b2 b1))
  | 0x8D => .sta (.abs (word b2 b1))
  | 0x8E => .stx (.abs (word b2 b1))
  | 0x90 => .bcc b1
  | 0x91 => .sta (.izy b1)
  | 0x94 => .sty (.zpx b1)
  | 0x95 => .sta (.zpx b1)
  | 0x96 => .stx (.zpy b1)
  | 0x98 => .tya
  | 0x99 => .sta (.aby (word b2 b1))
  | 0x9A => .txs
  | 0x9D => .sta (.abx (word b2 b1))
  | 0xA0 => .ldy (.imm b1)
  | 0xA1 => .lda (.mem (.izx b1))
  | 0xA2 => .ldx (.imm b1)
  | 0xA4 => .ldy (.mem (.zp0 b1))
  | 0xA5 => .lda (.mem (.zp0 b1))
  | 0xA6 => .ldx (.mem (.zp0 b1))
  | 0xA8 => .tay
  | 0xA9 => .lda (.imm b1)
  | 0xAA => .tax
  | 0xAC => .ldy (.mem (.abs (word b2 b1)))
  | 0xAD => .lda (.mem (.abs (word b2 b1)))
  | 0xAE => .ldx (.mem (.abs (word b2 b1)))
  | 0xB0 => .bcs b1
  | 0xB1 => .lda (.mem (.izy b1))
  | 0xB4 => .ldy (.mem (.zpx b1))
  | 0xB5 => .lda (.mem (.zpx b1))
  | 0xB6 => .ldx (.mem (.zpy b1))
  | 0xB8 => .clv
  | 0xB9 => .lda (.mem (.aby (word b2 b1)))
  | 0xBA => .tsx
  | 0xBC => .ldy (.mem (.abx (word b2 b1)))
  | 0xBD => .lda (.mem (.abx (word b2 b1)))
  | 0xBE => .ldx (.mem (.aby (word b2 b1)))
  | 0xC0 => .cpy (.imm b1)
  | 0xC1 => .cmp (.mem (.izx b1))
  | 0xC4 => .cpy (.mem (.zp0 b1))
  | 0xC5 => .cmp (.mem (.zp0 b1))
  | 0xC6 => .dec (.zp0 b1)
  | 0xC8 => .iny
  | 0xC9 => .cmp (.imm b1)
  | 0xCA => .dex
  | 0xCC => .cpy (.mem (.abs (word b2 b1)))
  | 0xCD => .cmp (.mem (.abs (word b2 b1)))
  | 0xCE => .dec (.abs (word b2 b1))
  | 0xD0 => .bne b1
  | 0xD1 => .cmp (.mem (.izy b1))
  | 0xD5 => .cmp (.mem (.zpx b1))
  | 0xD6 => .dec (.zpx b1)
  | 0xD8 => .cld
  | 0xD9 => .cmp (.mem (.aby (word b2 b1)))
  | 0xDD => .cmp (.mem (.abx (word b2 b1)))
  | 0xDE => .dec (.abx (word b2 b1))
  | 0xE0 => .cpx (.imm b1)
  | 0xE1 => .sbc (.mem (.izx b1))
  | 0xE4 => .cpx (.mem (.zp0 b1))
  | 0xE5 => .sbc (.mem (.zp0 b1))
  | 0xE6 => .inc (.zp0 b1)
  | 0xE8 => .inx
  | 0xE9 => .sbc (.imm b1)
  | 0xEA => .nop
  | 0xEC => .cpx (.mem (.abs (word b2 b1)))
  | 0xED => .sbc (.mem (.abs (word b2 b1)))
  | 0xEE => .inc (.abs (word b2 b1))
  | 0xF0 => .beq b1
  | 0xF1 => .sbc (.mem (.izy b1))
  | 0xF5 => .sbc (.mem (.zpx b1))
  | 0xF6 => .inc (.zpx b1)
  | 0xF8 => .sed
  | 0xF9 => .sbc (.mem (.aby (word b2 b1)))
  | 0xFD => .sbc (.mem (.abx (word b2 b1)))
  | 0xFE => .inc (.abx (word b2 b1))
  | _ => .unassigned opcode

/-- How many operand bytes follow the opcode in each mode (R140). -/
def ModeName.operandBytes : ModeName → Nat
  | .imp => 0
  | .imm | .zp0 | .zpx | .zpy | .rel | .izx | .izy => 1
  | .abs | .abx | .aby | .ind => 2

/-- The addressing mode of an instruction (R145). -/
def Instr.mode : Instr → ModeName
  | .lda o | .ldx o | .ldy o => o.name
  | .sta o | .stx o | .sty o => o.name
  | .tax | .tay | .txa | .tya | .tsx | .txs => .imp
  | .adc o | .sbc o | .and o | .ora o | .eor o => o.name
  | .bit o => o.name
  | .cmp o | .cpx o | .cpy o => o.name
  | .inc o | .dec o => o.name
  | .inx | .iny | .dex | .dey => .imp
  | .asl o | .lsr o | .rol o | .ror o => o.name
  | .php | .pha | .pla | .plp => .imp
  | .bcc _ | .bcs _ | .beq _ | .bmi _ | .bne _ | .bpl _ | .bvc _ | .bvs _ => .rel
  | .jmp o => o.name
  | .jsr _ => .abs
  | .rts | .rti | .brk => .imp
  | .clc | .sec | .cli | .sei | .cld | .sed | .clv | .nop => .imp
  | .unassigned _ => .imp

/-- How many operand bytes follow an instruction's opcode (R140). -/
def Instr.operandBytes (i : Instr) : Nat := i.mode.operandBytes

/-- The operand bytes that follow an opcode: the opcode alone tells (R142). -/
def operandCount (opcode : Byte) : Nat := (dispatch opcode 0 0).operandBytes

/-! ## Base cycle counts

The counts of R145, grouped by what the operation does with its operand; `Tests/Slice0.lean` holds them against the
grid of R145 for every opcode. -/

/-- An operation that reads its operand. -/
def readCycles : ModeName → Nat
  | .imm => 2
  | .zp0 => 3
  | .zpx | .zpy | .abs | .abx | .aby => 4
  | .izy => 5
  | .izx => 6
  | .imp | .rel | .ind => 2

/-- A store. -/
def storeCycles : ModeName → Nat
  | .zp0 => 3
  | .zpx | .zpy | .abs => 4
  | .abx | .aby => 5
  | .izx | .izy => 6
  | .imp | .imm | .rel | .ind => 2

/-- A read-modify-write, or its accumulator form. -/
def rmwCycles : ModeName → Nat
  | .imp => 2
  | .zp0 => 5
  | .zpx | .zpy | .abs => 6
  | .abx | .aby => 7
  | .imm | .rel | .ind | .izx | .izy => 2

/-- The base cycle count of an instruction's dispatch entry (R145; R146 for an unassigned opcode). -/
def Instr.baseCycles : Instr → Nat
  | .lda o | .ldx o | .ldy o => readCycles o.name
  | .sta o | .stx o | .sty o => storeCycles o.name
  | .tax | .tay | .txa | .tya | .tsx | .txs => 2
  | .adc o | .sbc o | .and o | .ora o | .eor o => readCycles o.name
  | .bit o => readCycles o.name
  | .cmp o | .cpx o | .cpy o => readCycles o.name
  | .inc o | .dec o => rmwCycles o.name
  | .inx | .iny | .dex | .dey => 2
  | .asl o | .lsr o | .rol o | .ror o => rmwCycles o.name
  | .php | .pha => 3
  | .pla | .plp => 4
  | .bcc _ | .bcs _ | .beq _ | .bmi _ | .bne _ | .bpl _ | .bvc _ | .bvs _ => 2
  | .jmp (.abs _) => 3
  | .jmp (.ind _) => 5
  | .jsr _ => 6
  | .rts | .rti => 6
  | .brk => 7
  | .clc | .sec | .cli | .sei | .cld | .sed | .clv | .nop => 2
  | .unassigned _ => Config.illegalOpcodeCycles

/-! ## Decoding a byte string -/

/-- Why a byte string gives no instruction. A dispatch entry itself never refuses (R142, R147). -/
inductive DecodeError where
  /-- There is no opcode byte. -/
  | noOpcode
  /-- The string ends before the opcode's operand bytes. -/
  | missingOperand (opcode : Byte)
  deriving DecidableEq, Repr

/-- Decode the first instruction of a byte string and give the bytes after it. -/
def decode : List Byte → Except DecodeError (Instr × List Byte)
  | [] => .error .noOpcode
  | op :: rest =>
    match operandCount op, rest with
    | 0, rest => .ok (dispatch op 0 0, rest)
    | 1, b1 :: rest => .ok (dispatch op b1 0, rest)
    | _, b1 :: b2 :: rest => .ok (dispatch op b1 b2, rest)
    | _, _ => .error (.missingOperand op)

/-- What the decoder reads from an instruction whose bits are `w`, numbered as spec/opcode_table.json numbers them: the
opcode is bits 7..0, the second byte bits 15..8, the third bits 23..16; the bits from `nbits` up are zero. -/
def decodeTableWord (nbits w : Nat) : Option Instr :=
  match decode (Bits.bytesOf 3 (w % 2 ^ nbits)) with
  | .ok (i, _) => some i
  | .error _ => none

/-! ## The encoder -/

/-- The opcode of an instruction, from the Encoding line of its rule; `none` for an operand form without a row. -/
def Instr.opcode : Instr → Option Byte
  | .lda (.imm _) => some 0xA9
  | .lda (.mem (.zp0 _)) => some 0xA5
  | .lda (.mem (.zpx _)) => some 0xB5
  | .lda (.mem (.abs _)) => some 0xAD
  | .lda (.mem (.abx _)) => some 0xBD
  | .lda (.mem (.aby _)) => some 0xB9
  | .lda (.mem (.izx _)) => some 0xA1
  | .lda (.mem (.izy _)) => some 0xB1
  | .lda _ => none
  | .ldx (.imm _) => some 0xA2
  | .ldx (.mem (.zp0 _)) => some 0xA6
  | .ldx (.mem (.zpy _)) => some 0xB6
  | .ldx (.mem (.abs _)) => some 0xAE
  | .ldx (.mem (.aby _)) => some 0xBE
  | .ldx _ => none
  | .ldy (.imm _) => some 0xA0
  | .ldy (.mem (.zp0 _)) => some 0xA4
  | .ldy (.mem (.zpx _)) => some 0xB4
  | .ldy (.mem (.abs _)) => some 0xAC
  | .ldy (.mem (.abx _)) => some 0xBC
  | .ldy _ => none
  | .sta (.zp0 _) => some 0x85
  | .sta (.zpx _) => some 0x95
  | .sta (.abs _) => some 0x8D
  | .sta (.abx _) => some 0x9D
  | .sta (.aby _) => some 0x99
  | .sta (.izx _) => some 0x81
  | .sta (.izy _) => some 0x91
  | .sta _ => none
  | .stx (.zp0 _) => some 0x86
  | .stx (.zpy _) => some 0x96
  | .stx (.abs _) => some 0x8E
  | .stx _ => none
  | .sty (.zp0 _) => some 0x84
  | .sty (.zpx _) => some 0x94
  | .sty (.abs _) => some 0x8C
  | .sty _ => none
  | .tax => some 0xAA
  | .tay => some 0xA8
  | .txa => some 0x8A
  | .tya => some 0x98
  | .tsx => some 0xBA
  | .txs => some 0x9A
  | .adc (.imm _) => some 0x69
  | .adc (.mem (.zp0 _)) => some 0x65
  | .adc (.mem (.zpx _)) => some 0x75
  | .adc (.mem (.abs _)) => some 0x6D
  | .adc (.mem (.abx _)) => some 0x7D
  | .adc (.mem (.aby _)) => some 0x79
  | .adc (.mem (.izx _)) => some 0x61
  | .adc (.mem (.izy _)) => some 0x71
  | .adc _ => none
  | .sbc (.imm _) => some 0xE9
  | .sbc (.mem (.zp0 _)) => some 0xE5
  | .sbc (.mem (.zpx _)) => some 0xF5
  | .sbc (.mem (.abs _)) => some 0xED
  | .sbc (.mem (.abx _)) => some 0xFD
  | .sbc (.mem (.aby _)) => some 0xF9
  | .sbc (.mem (.izx _)) => some 0xE1
  | .sbc (.mem (.izy _)) => some 0xF1
  | .sbc _ => none
  | .and (.imm _) => some 0x29
  | .and (.mem (.zp0 _)) => some 0x25
  | .and (.mem (.zpx _)) => some 0x35
  | .and (.mem (.abs _)) => some 0x2D
  | .and (.mem (.abx _)) => some 0x3D
  | .and (.mem (.aby _)) => some 0x39
  | .and (.mem (.izx _)) => some 0x21
  | .and (.mem (.izy _)) => some 0x31
  | .and _ => none
  | .ora (.imm _) => some 0x09
  | .ora (.mem (.zp0 _)) => some 0x05
  | .ora (.mem (.zpx _)) => some 0x15
  | .ora (.mem (.abs _)) => some 0x0D
  | .ora (.mem (.abx _)) => some 0x1D
  | .ora (.mem (.aby _)) => some 0x19
  | .ora (.mem (.izx _)) => some 0x01
  | .ora (.mem (.izy _)) => some 0x11
  | .ora _ => none
  | .eor (.imm _) => some 0x49
  | .eor (.mem (.zp0 _)) => some 0x45
  | .eor (.mem (.zpx _)) => some 0x55
  | .eor (.mem (.abs _)) => some 0x4D
  | .eor (.mem (.abx _)) => some 0x5D
  | .eor (.mem (.aby _)) => some 0x59
  | .eor (.mem (.izx _)) => some 0x41
  | .eor (.mem (.izy _)) => some 0x51
  | .eor _ => none
  | .bit (.zp0 _) => some 0x24
  | .bit (.abs _) => some 0x2C
  | .bit _ => none
  | .cmp (.imm _) => some 0xC9
  | .cmp (.mem (.zp0 _)) => some 0xC5
  | .cmp (.mem (.zpx _)) => some 0xD5
  | .cmp (.mem (.abs _)) => some 0xCD
  | .cmp (.mem (.abx _)) => some 0xDD
  | .cmp (.mem (.aby _)) => some 0xD9
  | .cmp (.mem (.izx _)) => some 0xC1
  | .cmp (.mem (.izy _)) => some 0xD1
  | .cmp _ => none
  | .cpx (.imm _) => some 0xE0
  | .cpx (.mem (.zp0 _)) => some 0xE4
  | .cpx (.mem (.abs _)) => some 0xEC
  | .cpx _ => none
  | .cpy (.imm _) => some 0xC0
  | .cpy (.mem (.zp0 _)) => some 0xC4
  | .cpy (.mem (.abs _)) => some 0xCC
  | .cpy _ => none
  | .inc (.zp0 _) => some 0xE6
  | .inc (.zpx _) => some 0xF6
  | .inc (.abs _) => some 0xEE
  | .inc (.abx _) => some 0xFE
  | .inc _ => none
  | .dec (.zp0 _) => some 0xC6
  | .dec (.zpx _) => some 0xD6
  | .dec (.abs _) => some 0xCE
  | .dec (.abx _) => some 0xDE
  | .dec _ => none
  | .inx => some 0xE8
  | .iny => some 0xC8
  | .dex => some 0xCA
  | .dey => some 0x88
  | .asl .acc => some 0x0A
  | .asl (.mem (.zp0 _)) => some 0x06
  | .asl (.mem (.zpx _)) => some 0x16
  | .asl (.mem (.abs _)) => some 0x0E
  | .asl (.mem (.abx _)) => some 0x1E
  | .asl _ => none
  | .lsr .acc => some 0x4A
  | .lsr (.mem (.zp0 _)) => some 0x46
  | .lsr (.mem (.zpx _)) => some 0x56
  | .lsr (.mem (.abs _)) => some 0x4E
  | .lsr (.mem (.abx _)) => some 0x5E
  | .lsr _ => none
  | .rol .acc => some 0x2A
  | .rol (.mem (.zp0 _)) => some 0x26
  | .rol (.mem (.zpx _)) => some 0x36
  | .rol (.mem (.abs _)) => some 0x2E
  | .rol (.mem (.abx _)) => some 0x3E
  | .rol _ => none
  | .ror .acc => some 0x6A
  | .ror (.mem (.zp0 _)) => some 0x66
  | .ror (.mem (.zpx _)) => some 0x76
  | .ror (.mem (.abs _)) => some 0x6E
  | .ror (.mem (.abx _)) => some 0x7E
  | .ror _ => none
  | .php => some 0x08
  | .pha => some 0x48
  | .pla => some 0x68
  | .plp => some 0x28
  | .bcc _ => some 0x90
  | .bcs _ => some 0xB0
  | .beq _ => some 0xF0
  | .bmi _ => some 0x30
  | .bne _ => some 0xD0
  | .bpl _ => some 0x10
  | .bvc _ => some 0x50
  | .bvs _ => some 0x70
  | .jmp (.abs _) => some 0x4C
  | .jmp (.ind _) => some 0x6C
  | .jsr _ => some 0x20
  | .rts => some 0x60
  | .rti => some 0x40
  | .brk => some 0x00
  | .clc => some 0x18
  | .sec => some 0x38
  | .cli => some 0x58
  | .sei => some 0x78
  | .cld => some 0xD8
  | .sed => some 0xF8
  | .clv => some 0xB8
  | .nop => some 0xEA
  | .unassigned opcode => if opcode.toNat ∈ unassignedOpcodes then some opcode else none

/-- The operand bytes of a 16-bit operand: the low byte first (R141). -/
def wordBytes (w : Word) : List Byte := [loByte w, hiByte w]

def MemMode.bytes : MemMode → List Byte
  | .zp0 b | .zpx b | .zpy b | .izx b | .izy b => [b]
  | .abs w | .abx w | .aby w => wordBytes w

def Src.bytes : Src → List Byte
  | .imm b => [b]
  | .mem m => m.bytes

def Rmw.bytes : Rmw → List Byte
  | .acc => []
  | .mem m => m.bytes

def JumpTarget.bytes : JumpTarget → List Byte
  | .abs w | .ind w => wordBytes w

/-- The operand bytes that follow an instruction's opcode (R140, R141). -/
def Instr.operand : Instr → List Byte
  | .lda o | .ldx o | .ldy o => o.bytes
  | .sta o | .stx o | .sty o => o.bytes
  | .tax | .tay | .txa | .tya | .tsx | .txs => []
  | .adc o | .sbc o | .and o | .ora o | .eor o => o.bytes
  | .bit o => o.bytes
  | .cmp o | .cpx o | .cpy o => o.bytes
  | .inc o | .dec o => o.bytes
  | .inx | .iny | .dex | .dey => []
  | .asl o | .lsr o | .rol o | .ror o => o.bytes
  | .php | .pha | .pla | .plp => []
  | .bcc b | .bcs b | .beq b | .bmi b | .bne b | .bpl b | .bvc b | .bvs b => [b]
  | .jmp o => o.bytes
  | .jsr w => wordBytes w
  | .rts | .rti | .brk => []
  | .clc | .sec | .cli | .sei | .cld | .sed | .clv | .nop => []
  | .unassigned _ => []

/-- The bytes of an instruction, `none` for an operand form that has no encoding. -/
def encode (i : Instr) : Option (List Byte) := i.opcode.map (· :: i.operand)

end Sys2Proof
end

