-- ==== Sys2Proof/Machine/Fetch.lean ====
section
/-! DEFINITION. Fetching an instruction's bytes through the bus (R170, R579), and placing an instruction's bytes where the
next fetch reads them (the host's load of a program, log 8). -/

namespace Sys2Proof.Machine

/-! ## Fetch (R579, first three lines; R170) -/

/-- The bytes of the instruction at PC, in order, with the state that reading them leaves: the opcode, then as many
operand bytes as the opcode has (R142). PC is past them. -/
structure Fetched where
  bytes : List Byte
  after : State

/-- `n` further instruction bytes. -/
def fetchBytes : Nat → State → Fetched
  | 0, s => { bytes := [], after := s }
  | n + 1, s =>
    let rest := fetchBytes n (afterFetch s)
    { bytes := fetchByte s :: rest.bytes, after := rest.after }

/-- All bytes of the instruction at PC. -/
def fetchInstruction (s : State) : Fetched :=
  let rest := fetchBytes (operandCount (fetchByte s)) (afterFetch s)
  { bytes := fetchByte s :: rest.bytes, after := rest.after }

/-- The instruction at PC: its opcode dispatched with its operand bytes (R142). A byte the opcode does not have counts as
0 and is not looked at. -/
def fetchedInstr (s : State) : Instr :=
  let bytes := (fetchInstruction s).bytes
  dispatch (bytes.getD 0 0) (bytes.getD 1 0) (bytes.getD 2 0)

/-! ## Placing an instruction -/

/-- A CPU address whose byte a program can occupy: RAM, bring-up RAM or PRG. -/
def canHoldCode (a : Word) : Bool :=
  match target a with
  | .ram _ | .prg => true
  | .ppuReg _ | .oamDma | .port _ | .nothing => false

/-- Put a byte behind a CPU address that can hold code, as the host does when it constructs the core: PRG contents too. -/
def placeByte (a : Word) (b : Byte) (s : State) : State :=
  match target a with
  | .ram i => s.setRam (Cells.write s.ram i b)
  | .prg =>
    match s.cart with
    | none => s.setBringup (Cells.write s.bringupRam (a.toNat - 0x8000) b)
    | some c => s.setCart (some { c with prg := Cells.write c.prg (prgIndex c a) b })
  | .ppuReg _ | .oamDma | .port _ | .nothing => s

/-- Put bytes at consecutive addresses. -/
def placeBytes : Word → List Byte → State → State
  | _, [], s => s
  | a, b :: bs, s => placeBytes (a + 1) bs (placeByte a b s)

/-- Move the machine to the next tick that begins an instruction (log 8): a CPU-cycle tick, at an instruction boundary,
with no NMI pending or about to be requested by that tick's dot, and with PC where three bytes of code can stand (0x0000 if
they cannot at PC). What already holds is left alone. -/
def atFetch (s : State) : State :=
  let s := s.setClock (3 * ((s.clockCounter + 2) / 3))
  let s := (s.setCountdown 0).setNmiPending false
  let s := s.setPpu { s.ppu with nmiOut := false }
  let s := if s.ppu.scanline.val = 241 ∧ s.ppu.dot.val = 1 then s.setPpu { s.ppu with dot := 2 } else s
  if canHoldCode s.cpu.pc && canHoldCode (s.cpu.pc + 1) && canHoldCode (s.cpu.pc + 2) then s else s.setPc 0x0000

end Sys2Proof.Machine
end

