-- ==== Sys2Proof/Machine/PpuDot.lean ====
section
/-! DEFINITION. One PPU dot: rules R450 to R472 of 51_ppu_rendering.md. The dot changes only the PPU; it reads the
cartridge. -/

namespace Sys2Proof.Machine

open Bits (putField pair rev8)

/-- `if c: f` on the PPU. -/
def Ppu.when (c : Bool) (f : Ppu → Ppu) (p : Ppu) : Ppu := if c then f p else p

/-- `rendering`: MASK bit 3 or bit 4 (R46). -/
def Ppu.rendering (p : Ppu) : Bool := p.mask.getLsbD 3 || p.mask.getLsbD 4

/-! ## Background pipeline (R453 to R459) -/

/-- `BgShift` (R455). -/
def bgShift (p : Ppu) : Ppu :=
  { p with bgPatLo := p.bgPatLo <<< 1, bgPatHi := p.bgPatHi <<< 1, bgAttrLo := p.bgAttrLo <<< 1, bgAttrHi := p.bgAttrHi <<< 1 }

/-- A byte of ones for attribute bit 1, of zeros for 0 (R454). -/
def attrFill (b : Bool) : Byte := if b then 0xFF else 0x00

/-- `BgReload` (R454). -/
def bgReload (p : Ppu) : Ppu :=
  { p with
    bgPatLo  := putField p.bgPatLo 0 p.bgNextLo
    bgPatHi  := putField p.bgPatHi 0 p.bgNextHi
    bgAttrLo := putField p.bgAttrLo 0 (attrFill (p.bgNextAttr.getLsbD 0))
    bgAttrHi := putField p.bgAttrHi 0 (attrFill (p.bgNextAttr.getLsbD 1)) }

/-- `FetchNT` (R456). -/
def fetchNT (cart : Option Cartridge) (p : Ppu) : Ppu :=
  { p with bgNextId := ppuRead cart p (0x2000 ||| (p.v.setWidth 14 &&& 0x0FFF)) }

/-- The address of the attribute byte (R457). -/
def attrAddress (v : BitVec 15) : BitVec 14 :=
  (0x23C0 ||| (v &&& 0x0C00) ||| ((v >>> 4) &&& 0x38) ||| ((v >>> 2) &&& 0x07)).setWidth 14

/-- `FetchAT` (R457). -/
def fetchAT (cart : Option Cartridge) (p : Ppu) : Ppu :=
  let at0 := ppuRead cart p (attrAddress p.v)
  let at1 := if p.v.getLsbD 6 then at0 >>> 4 else at0
  let at2 := if p.v.getLsbD 1 then at1 >>> 2 else at1
  { p with bgNextAttr := at2.extractLsb' 0 2 }

/-- The address of the background tile's row in the low plane (R458). -/
def bgPatternAddress (p : Ppu) : Nat :=
  (p.ctrl.getLsbD 4).toNat * 0x1000 + p.bgNextId.toNat * 16 + (p.v.extractLsb' 12 3).toNat

/-- `FetchPTLo` (R458). -/
def fetchPTLo (cart : Option Cartridge) (p : Ppu) : Ppu :=
  { p with bgNextLo := ppuRead cart p (BitVec.ofNat 14 (bgPatternAddress p)) }

/-- `FetchPTHi` (R458). -/
def fetchPTHi (cart : Option Cartridge) (p : Ppu) : Ppu :=
  { p with bgNextHi := ppuRead cart p (BitVec.ofNat 14 (bgPatternAddress p + 8)) }

/-- `IncX` (R459) on the value of v. -/
def incXOf (v : BitVec 15) : BitVec 15 :=
  let cx : BitVec 5 := v.extractLsb' 0 5
  if cx = 31 then putField (putField v 0 (0 : BitVec 5)) 10 (BitVec.ofBool (!v.getLsbD 10))
  else putField v 0 (cx + 1)

/-- `IncX` (R459). -/
def incX (p : Ppu) : Ppu := { p with v := incXOf p.v }

/-- `BgStep(d)` (R453). -/
def bgStep (cart : Option Cartridge) (d : Nat) (p : Ppu) : Ppu :=
  let p := p.when (p.mask.getLsbD 3) bgShift
  match (d - 1) % 8 with
  | 0 => fetchNT cart (bgReload p)
  | 2 => fetchAT cart p
  | 4 => fetchPTLo cart p
  | 6 => fetchPTHi cart p
  | 7 => p.when p.rendering incX
  | _ => p

/-! ## Scroll copies and the Y increment (R461 to R463) -/

/-- `IncY` (R461) on the value of v: fine Y first, coarse Y when fine Y wraps. -/
def incYOf (v : BitVec 15) : BitVec 15 :=
  let fine : BitVec 3 := v.extractLsb' 12 3
  if fine.toNat < 7 then putField v 12 (fine + 1)
  else
    let v := putField v 12 (0 : BitVec 3)
    let y : BitVec 5 := v.extractLsb' 5 5
    if y = 29 then putField (putField v 11 (BitVec.ofBool (!v.getLsbD 11))) 5 (0 : BitVec 5)
    else if y = 31 then putField v 5 (0 : BitVec 5)
    else putField v 5 (y + 1)

/-- `IncY` (R461). -/
def incY (p : Ppu) : Ppu := { p with v := incYOf p.v }

/-- `CopyX` (R462) on the values of v and t. -/
def copyXOf (v t : BitVec 15) : BitVec 15 :=
  putField (putField v 0 (t.extractLsb' 0 5)) 10 (t.extractLsb' 10 1)

/-- `CopyX` (R462). -/
def copyX (p : Ppu) : Ppu := { p with v := copyXOf p.v p.t }

/-- `CopyY` (R463) on the values of v and t. -/
def copyYOf (v t : BitVec 15) : BitVec 15 :=
  putField (putField (putField v 5 (t.extractLsb' 5 5)) 12 (t.extractLsb' 12 3)) 11 (t.extractLsb' 11 1)

/-- `CopyY` (R463). -/
def copyY (p : Ppu) : Ppu := { p with v := copyYOf p.v p.t }

/-! ## Sprites (R465 to R467, R472) -/

/-- A table of eight values. -/
def tabulate8 {α : Type} (f : Fin 8 → α) : Vector α 8 := #v[f 0, f 1, f 2, f 3, f 4, f 5, f 6, f 7]

/-- The scanline after the current one, `(s + 1) mod 262` (R466). -/
def nextScanline (p : Ppu) : Nat := (p.scanline.val + 1) % 262

/-- The sprite height from CTRL bit 5 (R466). -/
def spriteHeight (p : Ppu) : Nat := if p.ctrl.getLsbD 5 then 16 else 8

/-- Entry `e` of OAM (R52). -/
def oamEntry (oam : Memory) (e : Nat) : OamEntry :=
  { y := Cells.read oam (4 * e), tile := Cells.read oam (4 * e + 1)
    attr := Cells.read oam (4 * e + 2), x := Cells.read oam (4 * e + 3) }

/-- `0 <= n - oam[4e] < h` (R466). -/
def inRange (p : Ppu) (e : Nat) : Bool :=
  let y := (Cells.read p.oam (4 * e)).toNat
  decide (y ≤ nextScanline p) && decide (nextScanline p < y + spriteHeight p)

/-- The entries evaluation selects: the first eight in range, in OAM order (R466). -/
def selected (p : Ppu) : List Nat := ((List.range 64).filter (inRange p)).take 8

/-- `EvaluateSprites` (R466), with the overflow flag of R467. The k-th selected entry is copied to slot k and every other
slot is left at 0xFF. -/
def evaluateSprites (p : Ppu) : Ppu :=
  let sel := selected p
  { p with
    oam2 := tabulate8 fun k => match sel[k.val]? with
      | some e => oamEntry p.oam e
      | none => OamEntry.unused
    spriteCount := Fin.ofNat 9 sel.length
    sprite0InLine := sel.contains 0
    spriteOverflow := p.spriteOverflow || decide (sel.length = 8) }

/-- The row of the sprite's tile that the next scanline shows, after the vertical flip: an integer, as R10 computes it
(R472, log 7). -/
def spriteRow (p : Ppu) (e : OamEntry) : Int :=
  let row : Int := (nextScanline p : Int) - e.y.toNat
  if e.attr.getLsbD 7 then ((spriteHeight p : Int) - 1) - row else row

/-- The address of that row in the low plane (R472), an integer. -/
def spriteAddress (p : Ppu) (e : OamEntry) : Int :=
  let row := spriteRow p e
  if spriteHeight p = 8 then
    (p.ctrl.getLsbD 3).toNat * 0x1000 + e.tile.toNat * 16 + row
  else
    (e.tile.getLsbD 0).toNat * 0x1000 + ((e.tile &&& 0xFE).toNat + (if 8 ≤ row then 1 else 0)) * 16 + row % 8

/-- A fetched pattern byte with the horizontal flip applied (R472). -/
def spriteByte (cart : Option Cartridge) (p : Ppu) (e : OamEntry) (a : Int) : Byte :=
  let b := ppuRead cart p (BitVec.ofInt 14 a)
  if e.attr.getLsbD 6 then rev8 b else b

/-- `FetchSprites` (R472). -/
def fetchSprites (cart : Option Cartridge) (p : Ppu) : Ppu :=
  { p with
    sprLo := tabulate8 fun i =>
      if i.val < p.spriteCount.val then spriteByte cart p p.oam2[i] (spriteAddress p p.oam2[i]) else 0
    sprHi := tabulate8 fun i =>
      if i.val < p.spriteCount.val then spriteByte cart p p.oam2[i] (spriteAddress p p.oam2[i] + 8) else 0 }

/-! ## Pixels (R464, R465, R468, R469) -/

/-- A background pixel: its 2-bit value and its 2-bit palette selector. -/
structure BgPixel where
  value   : BitVec 2
  palette : BitVec 2
  deriving DecidableEq, Repr

/-- A non-transparent sprite pixel (R465). -/
structure SpritePixel where
  value      : BitVec 2
  /-- The attribute's two palette bits; the palette number is this + 4. -/
  palette    : BitVec 2
  behind     : Bool
  spriteZero : Bool
  deriving DecidableEq, Repr

/-- `BgPixel()` (R464). -/
def bgPixel (p : Ppu) : BgPixel :=
  if p.mask.getLsbD 3 then
    let b := 15 - p.x.toNat
    { value := pair (p.bgPatHi.getLsbD b) (p.bgPatLo.getLsbD b)
      palette := pair (p.bgAttrHi.getLsbD b) (p.bgAttrLo.getLsbD b) }
  else { value := 0, palette := 0 }

/-- What slot `i` shows at screen column `sx`, if it covers the column with a non-zero pixel (R465). -/
def slotPixel (p : Ppu) (sx : Nat) (i : Fin 8) : Option SpritePixel :=
  let e := p.oam2[i]
  let xi := e.x.toNat
  if i.val < p.spriteCount.val ∧ xi ≤ sx ∧ sx ≤ xi + 7 then
    let c := sx - xi
    let value := pair (p.sprHi[i].getLsbD (7 - c)) (p.sprLo[i].getLsbD (7 - c))
    if value = 0 then none
    else some { value := value, palette := e.attr.extractLsb' 0 2, behind := e.attr.getLsbD 5
                spriteZero := decide (i.val = 0) && p.sprite0InLine }
  else none

/-- The slots in OAM order. -/
def slots : List (Fin 8) := [0, 1, 2, 3, 4, 5, 6, 7]

/-- `SpritePixel(d)` (R465): the first slot in OAM order that shows something. -/
def spritePixel (p : Ppu) (d : Nat) : Option SpritePixel :=
  if p.mask.getLsbD 4 then slots.findSome? (slotPixel p (d - 1)) else none

/-- `Sprite0Hit(d, bg_p, spr)` (R468). -/
def hitsSpriteZero (p : Ppu) (d : Nat) (bg : BgPixel) (spr : Option SpritePixel) : Bool :=
  match spr with
  | none => false
  | some sp =>
    sp.spriteZero && decide (bg.value ≠ 0) && p.mask.getLsbD 3 && p.mask.getLsbD 4 &&
      !(decide (d ≤ 8) && !(p.mask.getLsbD 1 && p.mask.getLsbD 2))

/-- The pixel value and palette number that win (R469). -/
def winner (bg : BgPixel) (spr : Option SpritePixel) : Nat × Nat :=
  let back := if bg.value = 0 then (0, 0) else (bg.value.toNat, bg.palette.toNat)
  match spr with
  | none => back
  | some sp =>
    if bg.value = 0 ∨ sp.behind = false then (sp.value.toNat, sp.palette.toNat + 4) else back

/-- The colour index of a winning pixel: `PpuRead(0x3F00 + pal * 4 + p) & 0x3F` (R469). -/
def colourIndex (cart : Option Cartridge) (p : Ppu) (w : Nat × Nat) : BitVec 6 :=
  (ppuRead cart p (BitVec.ofNat 14 (0x3F00 + w.2 * 4 + w.1))).setWidth 6

/-- `ComposePixel(s, d)` (R469). -/
def composePixel (cart : Option Cartridge) (s d : Nat) (p : Ppu) : Ppu :=
  let bg := bgPixel p
  let spr := spritePixel p d
  { p with
    sprite0Hit := p.sprite0Hit || hitsSpriteZero p d bg spr
    frameBuffer := Cells.write p.frameBuffer (s * 256 + d - 1) (colourIndex cart p (winner bg spr)) }

/-! ## VBlank, pre-render and the timing counters (R451, R470, R471) -/

/-- `StartVBlank` (R470). -/
def startVBlank (p : Ppu) : Ppu := { p with vblank := true, nmiOut := p.nmiOut || p.ctrl.getLsbD 7 }

/-- `PreRenderClear` (R471). -/
def preRenderClear (p : Ppu) : Ppu :=
  { p with vblank := false, sprite0Hit := false, spriteOverflow := false
           sprLo := Vector.replicate 8 0, sprHi := Vector.replicate 8 0 }

/-- `Advance` (R451). -/
def advance (p : Ppu) : Ppu :=
  if hd : p.dot.val + 1 < 341 then { p with dot := ⟨p.dot.val + 1, hd⟩ }
  else if hs : p.scanline.val + 1 < 262 then { p with dot := 0, scanline := ⟨p.scanline.val + 1, hs⟩ }
  else { p with dot := 0, scanline := 0, frame := p.frame + 1 }

/-! ## The dot procedure (R450) -/

/-- The actions of a render line, a visible line or the pre-render line (R450). -/
def renderLine (cart : Option Cartridge) (s d : Nat) (p : Ppu) : Ppu :=
  let p := p.when (decide (1 ≤ d ∧ d ≤ 256 ∨ 321 ≤ d ∧ d ≤ 336)) (bgStep cart d)
  let p := p.when (decide (d = 256) && p.rendering) incY
  let p := p.when (decide (d = 257) && p.rendering) copyX
  let p := p.when (decide (d = 257)) evaluateSprites
  let p := p.when (decide (d = 320)) (fetchSprites cart)
  p.when (decide (s = 261 ∧ 280 ≤ d ∧ d ≤ 304) && p.rendering) copyY

/-- `PpuDot()` (R450). -/
def ppuDot (cart : Option Cartridge) (p : Ppu) : Ppu :=
  let s := p.scanline.val
  let d := p.dot.val
  let p := p.when (decide (s = 261 ∧ d = 1)) preRenderClear
  let p := p.when (decide (s = 241 ∧ d = 1)) startVBlank
  let p := p.when (decide (s ≤ 239 ∨ s = 261)) (renderLine cart s d)
  let p := p.when (decide (s ≤ 239 ∧ 1 ≤ d ∧ d ≤ 256)) (composePixel cart s d)
  advance p

end Sys2Proof.Machine
end

