-- ==== Sys2Proof/Machine/Tick.lean ====
section
/-! DEFINITION. The bus tick: rules R575 to R579 of 70_reset_and_hazards.md and the NMI forward of R522. -/

namespace Sys2Proof.Machine

/-- `ExecuteInstruction()` (R579): fetch, reload the countdown with the entry's base cycles, then the operation. No fetch
changes the countdown, so the reload may stand after the operand bytes. -/
def executeInstruction (s : State) : Result :=
  let i := fetchedInstr s
  exec i ((fetchInstruction s).after.setCountdown i.baseCycles)

/-- `countdown <- countdown - 1` (R578). -/
def countDown (s : State) : State := s.setCountdown (s.cpu.countdown - 1)

/-- `CpuCycle()` (R578, R523): at a boundary a pending NMI is serviced, else an instruction is executed; then the
countdown is decremented. -/
def cpuCycle (s : State) : Result :=
  if s.cpu.countdown = 0 then
    if s.cpu.nmiPending then .next (countDown (enterNmi s))
    else andThen (executeInstruction s) countDown
  else .next (countDown s)

/-- One CPU cycle on every third tick, tested before the counter is incremented (R575). -/
def cpuPart (s : State) : Result :=
  if s.clockCounter % Config.cpuDivider = 0 then cpuCycle s else .next s

/-- `PpuDot()` on the state (R450). -/
def dotPart (s : State) : State := s.setPpu (ppuDot s.cart s.ppu)

/-- The bus forwards the PPU's NMI request to the CPU's latch (R522). -/
def forwardNmi (s : State) : State :=
  if s.ppu.nmiOut then (s.setPpu { s.ppu with nmiOut := false }).setNmiPending true else s

/-- `clock_counter <- clock_counter + 1`. -/
def countTick (s : State) : State := s.setClock (s.clockCounter + 1)

/-- `BusTick()` (R575), in the order TICK_ORDER gives (R577). -/
def busTick (s : State) : Result :=
  match s.params.tickOrder with
  | .ppuFirst => andThen (cpuPart (forwardNmi (dotPart s))) countTick
  | .cpuFirst => andThen (cpuPart s) fun s => countTick (forwardNmi (dotPart s))

end Sys2Proof.Machine
end

