-- ==== Sys2Proof/Machine/Step.lean ====
section
/-! DEFINITION. One step is one bus tick, the host's `clock()` (R16, R574, R575). -/

namespace Sys2Proof.Machine

/-- One step of the machine: `BusTick()` (R575). -/
def step (s : State) : Host.Outcome State Fault Refusal := busTick s

/-- The state with the instruction of bits `w` placed where the next step fetches (log 8): its bytes as
spec/opcode_table.json numbers them, the bits from `nbits` up zero. -/
def State.withFetchWord (s : State) (nbits w : Nat) : State :=
  placeBytes (atFetch s).cpu.pc (Bits.bytesOf 3 (w % 2 ^ nbits)) (atFetch s)

end Sys2Proof.Machine
end

