-- ==== Sys2Proof/Machine/HostCalls.lean ====
section
/-! DEFINITION. The host's calls other than `clock()`: construction, reset, setting a button byte and the side-effect-free
reads (R18 of 00_scope.md; R570 to R574 of 70_reset_and_hazards.md; R95 of 20_memory.md). -/

namespace Sys2Proof.Machine

/-! ## Construction (R58, R95, R571) -/

/-- A parsed cartridge as the host hands it over (R58): header fields and raw buffers. -/
structure CartridgeImage where
  mapperId  : Nat
  prgBanks  : Nat
  chrBanks  : Nat
  mirroring : Mirroring
  prg       : List Byte
  chr       : List Byte
  deriving DecidableEq, Repr

/-- The contents of the memories at power-on: the OPEN parameters INIT_* of R7, in the order of their indexes. -/
structure InitialContents where
  ram        : List Byte
  vram       : List Byte
  palette    : List Byte
  oam        : List Byte
  chrRam     : List Byte
  bringupRam : List Byte
  deriving DecidableEq, Repr

/-- The first `n` bytes of a buffer as a memory of `n` cells. -/
def memoryOf (n : Nat) (bytes : List Byte) : Memory := Cells.ofList 0 (bytes.take n)

/-- The mapper variant of an id (R96). -/
def mapperOf : Nat → Option Mapper
  | 0 => some .fixed
  | 3 => some .switchableChr
  | _ => none

/-- The PRG size of a bank count (R95). -/
def prgBanksOf : Nat → Option PrgBanks
  | 1 => some .one
  | 2 => some .two
  | _ => none

/-- The cartridge of an image, or nothing where R95 refuses it. `initChr` is INIT_CHR_RAM. -/
def insertCartridge (image : CartridgeImage) (initChr : List Byte) : Option Cartridge :=
  match mapperOf image.mapperId, prgBanksOf image.prgBanks with
  | some m, some n =>
    if image.prg.length = Config.prgBankSize * image.prgBanks ∧
        (m = .fixed → image.chrBanks ≤ 1) ∧
        (0 < image.chrBanks → image.chr.length = Config.chrBankSize * image.chrBanks) then
      some { mapper := m, prgBanks := n, chrBanks := image.chrBanks, mirroring := image.mirroring
             prg := Cells.ofList 0 image.prg
             chr := if image.chrBanks = 0 then memoryOf Config.chrBankSize initChr else Cells.ofList 0 image.chr
             chrBank := 0 }
    else none
  | _, _ => none

/-- cart.mapper_id (R58). -/
def Cartridge.mapperId (c : Cartridge) : Nat :=
  match c.mapper with
  | .fixed => 0
  | .switchableChr => 3

/-! ## Reset (R570) -/

/-- `Reset()` (R570, R60): the bus counter, the PPU's registers and timing, the CHR bank, the controller latches and the
CPU are reset; memories, the frame buffer, the buttons and the parameters are kept. The reset vector is read through the
bus after the bank is reset. -/
def systemReset (s : State) : State :=
  let s := s.setClock 0
  let s := s.setPpu (Ppu.reset s.ppu.vram s.ppu.palette s.ppu.oam s.ppu.frameBuffer)
  let s := s.setCart (s.cart.map fun c => { c with chrBank := 0 })
  let s := s.setCtl { s.ctl with strobe := false, shift0 := 0x00, shift1 := 0x00 }
  { s with cpu := Cpu.reset (readWord resetVector s) }

/-- Power-on (R571): construction, then reset. A refused cartridge gives no machine at all (R95). -/
def powerOn (params : Params) (image : Option CartridgeImage) (init : InitialContents) : Result :=
  let start (cart : Option Cartridge) : State :=
    systemReset
      { cpu := Cpu.reset 0x0000
        ram := memoryOf Config.ramSize init.ram
        clockCounter := 0
        bringupRam := memoryOf Config.bringupSize init.bringupRam
        ppu := Ppu.reset (memoryOf Config.vramSize init.vram) (memoryOf Config.paletteSize init.palette)
          (memoryOf Config.oamSize init.oam) []
        cart := cart
        ctl := { strobe := false, shift0 := 0x00, shift1 := 0x00, buttons0 := 0x00, buttons1 := 0x00 }
        params := params }
  match image with
  | none => .next (start none)
  | some image =>
    match insertCartridge image init.chrRam with
    | none => .refused .unsupportedCartridge
    | some c => .next (start (some c))

/-! ## Buttons and the host's reads (R574, R414, R473) -/

/-- Setting BUTTONS[n], which changes no other state (R574). -/
def setButtons (n : Port) (v : Byte) (s : State) : State :=
  match n with
  | .zero => s.setCtl { s.ctl with buttons0 := v }
  | .one => s.setCtl { s.ctl with buttons1 := v }

/-- The host's read of v (R414). -/
def hostReadV (s : State) : BitVec 15 := s.ppu.v

/-- The host's read of t (R414). -/
def hostReadT (s : State) : BitVec 15 := s.ppu.t

/-- The host's read of the frame counter (R18). -/
def hostReadFrame (s : State) : Nat := s.ppu.frame

/-- The host's read of the colour index at a screen position (R57, R473). -/
def hostReadPixel (s : State) (line column : Nat) : BitVec 6 := Cells.read s.ppu.frameBuffer (line * 256 + column)

end Sys2Proof.Machine
end

