-- ==== Sys2Proof/Safety.lean ====
section
/-! DEFINITION. What a sound state of the machine is, and the words claims are stated in: what an instruction leaves
unchanged, what a store reaches, the fields of v, the position of the PPU. -/

namespace Sys2Proof.Machine

open Bits (zext16)

/-! ## The invariant -/

/-- A memory of `n` cells in canonical form. -/
def Cells.ok {w : Nat} (m : Cells w) (n : Nat) : Bool := Memory.wf m && Cells.within m n

/-- The PPU's memories (R52, R57). -/
def Ppu.inv (p : Ppu) : Bool :=
  Cells.ok p.vram Config.vramSize && Cells.ok p.palette Config.paletteSize && Cells.ok p.oam Config.oamSize &&
    Cells.ok p.frameBuffer Config.frameBufferSize

/-- The size of PRG (R58). -/
def prgSize : PrgBanks → Nat
  | .one => Config.prgBankSize
  | .two => 2 * Config.prgBankSize

/-- An accepted cartridge (R95) whose bank register is in range (R58). -/
def Cartridge.inv (c : Cartridge) : Bool :=
  Cells.ok c.prg (prgSize c.prgBanks) && Cells.ok c.chr (Config.chrBankSize * max c.chrBanks 1) &&
    decide (c.chrBank < max c.chrBanks 1) && decide (c.mapper = .fixed → c.chrBanks ≤ 1)

/-- A sound state: every memory canonical and of its size, the cartridge accepted with its bank in range, P's Unused bit 1
and its Break bit 0 (R34, R35). -/
def State.inv (s : State) : Bool :=
  Cells.ok s.ram Config.ramSize && Cells.ok s.bringupRam Config.bringupSize && s.ppu.inv && s.cart.all Cartridge.inv &&
    s.flag .u && !s.flag .b

/-- The most the countdown can hold between ticks (R39): 7 base cycles and an OAM DMA stall, less the cycle just run. -/
def maxCountdown : Nat := 7 + Config.oamDmaStall - 1

/-! ## The cycle grid (R145) -/

/-- The base cycle counts of the dispatch table as its grid gives them, one row per high nibble of the opcode, one column
per low nibble; an unassigned cell has the 2 cycles of R146. -/
def cycleGrid : List (List Nat) :=
  [[7, 6, 2, 2, 2, 3, 5, 2, 3, 2, 2, 2, 2, 4, 6, 2],
   [2, 5, 2, 2, 2, 4, 6, 2, 2, 4, 2, 2, 2, 4, 7, 2],
   [6, 6, 2, 2, 3, 3, 5, 2, 4, 2, 2, 2, 4, 4, 6, 2],
   [2, 5, 2, 2, 2, 4, 6, 2, 2, 4, 2, 2, 2, 4, 7, 2],
   [6, 6, 2, 2, 2, 3, 5, 2, 3, 2, 2, 2, 3, 4, 6, 2],
   [2, 5, 2, 2, 2, 4, 6, 2, 2, 4, 2, 2, 2, 4, 7, 2],
   [6, 6, 2, 2, 2, 3, 5, 2, 4, 2, 2, 2, 5, 4, 6, 2],
   [2, 5, 2, 2, 2, 4, 6, 2, 2, 4, 2, 2, 2, 4, 7, 2],
   [2, 6, 2, 2, 3, 3, 3, 2, 2, 2, 2, 2, 4, 4, 4, 2],
   [2, 6, 2, 2, 4, 4, 4, 2, 2, 5, 2, 2, 2, 5, 2, 2],
   [2, 6, 2, 2, 3, 3, 3, 2, 2, 2, 2, 2, 4, 4, 4, 2],
   [2, 5, 2, 2, 4, 4, 4, 2, 2, 4, 2, 2, 4, 4, 4, 2],
   [2, 6, 2, 2, 3, 3, 5, 2, 2, 2, 2, 2, 4, 4, 6, 2],
   [2, 5, 2, 2, 2, 4, 6, 2, 2, 4, 2, 2, 2, 4, 7, 2],
   [2, 6, 2, 2, 3, 3, 5, 2, 2, 2, 2, 2, 4, 4, 6, 2],
   [2, 5, 2, 2, 2, 4, 6, 2, 2, 4, 2, 2, 2, 4, 7, 2]]

/-- The base cycle count the grid gives an opcode, if the grid has a cell for it. -/
def gridCycles (op : Byte) : Option Nat := (cycleGrid[op.toNat / 16]?).bind fun row => row[op.toNat % 16]?

/-! ## Frames -/

/-- Everything outside the CPU is the same. -/
def sameOutside (s t : State) : Prop :=
  t.ram = s.ram ∧ t.bringupRam = s.bringupRam ∧ t.ppu = s.ppu ∧ t.cart = s.cart ∧ t.ctl = s.ctl ∧
    t.clockCounter = s.clockCounter ∧ t.params = s.params

/-- Everything outside the CPU and system RAM is the same. -/
def sameButRam (s t : State) : Prop :=
  t.bringupRam = s.bringupRam ∧ t.ppu = s.ppu ∧ t.cart = s.cart ∧ t.ctl = s.ctl ∧ t.clockCounter = s.clockCounter ∧
    t.params = s.params

/-- Every address of the CPU space reads as before. -/
def readsAlike (s t : State) : Prop := ∀ a : Word, busRead a t = busRead a s

/-- Every address of the CPU space that holds memory (RAM, bring-up RAM, PRG) reads as before. -/
def memoryReadsAlike (s t : State) : Prop := ∀ a : Word, canHoldCode a = true → busRead a t = busRead a s

/-- Every flag outside the list is kept. -/
def flagsKept (written : List Flag) (s t : State) : Prop := ∀ f, f ∉ written → t.flag f = s.flag f

/-- N and Z of a result, the flags outside the list kept (R14). -/
def setsNZ (r : Byte) (written : List Flag) (s t : State) : Prop :=
  t.flag .n = r.getLsbD 7 ∧ t.flag .z = decide (r = 0) ∧ flagsKept written s t

/-- The registers are those of `c`, but for P, and nothing outside the CPU changed: the instruction stored nothing. -/
def leaves (s : State) (c : Cpu) (t : State) : Prop :=
  t.cpu = { c with p := t.cpu.p } ∧ sameOutside s t ∧ readsAlike s t

/-- The flags of a comparison (R246). -/
def compares (reg m : Byte) (s t : State) : Prop :=
  t.flag .c = decide (m.toNat ≤ reg.toNat) ∧ t.flag .z = decide (reg = m) ∧ t.flag .n = (reg - m).getLsbD 7 ∧
    flagsKept [.c, .z, .n] s t

/-! ## Operands that are read -/

/-- The byte an operand denotes. -/
def operandByte (o : Src) (s : State) : Byte :=
  match o with
  | .imm v => v
  | .mem m => busRead (ea m s) s

/-- The state in which that byte has been read, with the side effects of a device register (R112). -/
def operandRead (o : Src) (s : State) : State :=
  match o with
  | .imm _ => s
  | .mem m => afterRead (ea m s) s

/-- The cycles a read adds (R184). -/
def operandCycles (o : Src) (s : State) : Nat :=
  match o with
  | .imm _ => 0
  | .mem m => pageCrossCycles m s

/-- The instruction stored nothing: outside the CPU only the side effects of reading the operand happened, and every byte
of memory reads as before. -/
def readsOperandOnly (o : Src) (s t : State) : Prop := sameOutside (operandRead o s) t ∧ memoryReadsAlike s t

/-- The registers are those of `c`, but for P and the countdown, which took the cycles of the read; nothing was stored. -/
def leavesAfterRead (o : Src) (s : State) (c : Cpu) (t : State) : Prop :=
  t.cpu = { c with p := t.cpu.p, countdown := s.cpu.countdown + operandCycles o s } ∧ readsOperandOnly o s t

/-! ## Stores -/

/-- A store at `e` is a store to the byte that `a` names: the same address, or a mirror of the same RAM byte (R82). -/
def storesTo (e a : Word) : Prop := a = e ∨ ∃ i, target a = .ram i ∧ target e = .ram i

/-- What a store of `v` at `e` does to everything but P: RAM and bring-up RAM take the byte, PRG does not (R89, R90), every
other byte of memory is kept; a device is touched only if `e` is its register; a write to 0x4014 adds the DMA stall (R86)
and no other register of the CPU changes. -/
def storeEffect (e : Word) (v : Byte) (s t : State) : Prop :=
  (∀ a, canHoldCode a = true → ¬ storesTo e a → busRead a t = busRead a s) ∧
  (∀ i, target e = .ram i → busRead e t = v) ∧
  (target e = .prg → busRead e t = if s.cart = none then v else busRead e s) ∧
  t.cpu = { s.cpu with p := t.cpu.p
                       countdown := s.cpu.countdown + (if target e = .oamDma then Config.oamDmaStall else 0) } ∧
  t.clockCounter = s.clockCounter ∧ t.params = s.params ∧
  ((∀ r, target e ≠ .ppuReg r) → target e ≠ .oamDma → t.ppu = s.ppu) ∧
  ((∀ n, target e ≠ .port n) → target e ≠ .oamDma → t.ctl = s.ctl) ∧
  (target e ≠ .ppuReg 7 → target e ≠ .prg → t.cart = s.cart)

/-! ## The stack -/

/-- The RAM byte that a value of SP designates (R31). -/
def stackSlot (sp : Byte) : Target := .ram (0x100 + sp.toNat)

/-- Every address but those of the listed bytes reads as before. -/
def readsAlikeExcept (stored : List Target) (s t : State) : Prop :=
  ∀ a, target a ∉ stored → busRead a t = busRead a s

/-- The byte in the stack slot that a value of SP designates (R31). -/
def stackByte (sp : Byte) (s : State) : Byte := busRead (stackAddress sp) s

/-- Every address of a stack slot reads as `v`. -/
def slotHolds (sp v : Byte) (s : State) : Prop := ∀ a, target a = stackSlot sp → busRead a s = v

/-- What taking an interrupt does to everything but the countdown and the NMI latch (R334, R524): the return address is
pushed high byte first, then P with Unused set and Break as given; I is set; PC comes from the vector. -/
def interruptEffect (returnTo : Word) (brk : Bool) (vector : Word) (s t : State) : Prop :=
  t.cpu.a = s.cpu.a ∧ t.cpu.x = s.cpu.x ∧ t.cpu.y = s.cpu.y ∧ t.cpu.sp = s.cpu.sp - 3 ∧
    t.cpu.pc = Bits.word (busRead (vector + 1) s) (busRead vector s) ∧ t.flag .i = true ∧ flagsKept [.i] s t ∧
    slotHolds s.cpu.sp (Bits.hiByte returnTo) t ∧ slotHolds (s.cpu.sp - 1) (Bits.loByte returnTo) t ∧
    (∃ status, slotHolds (s.cpu.sp - 2) status t ∧
      ∀ f, getFlag f status = if f = .b then brk else if f = .u then true else s.flag f) ∧
    readsAlikeExcept [stackSlot s.cpu.sp, stackSlot (s.cpu.sp - 1), stackSlot (s.cpu.sp - 2)] s t ∧ sameButRam s t

/-! ## Shifts -/

/-- `r` is `m` moved up one bit position with `b` shifted in (R284, R93). -/
def movedUp (b : Bool) (m r : Byte) : Prop := r.getLsbD 0 = b ∧ ∀ k, k < 7 → r.getLsbD (k + 1) = m.getLsbD k

/-- `r` is `m` moved down one bit position with `b` shifted in (R284). -/
def movedDown (b : Bool) (m r : Byte) : Prop := r.getLsbD 7 = b ∧ ∀ k, k < 7 → r.getLsbD k = m.getLsbD (k + 1)

/-- The byte a shift or rotate works on. -/
def rmwByte (o : Rmw) (s : State) : Byte :=
  match o with
  | .acc => s.cpu.a
  | .mem m => operandByte (.mem m) s

/-- The result `r` of a read-modify-write, put back where the byte came from: into A, or by one store after one read
(R183). -/
def rmwEffect (o : Rmw) (r : Byte) (s t : State) : Prop :=
  match o with
  | .acc => leaves s { s.cpu with a := r } t
  | .mem m =>
    storeEffect (ea m s) r (operandRead (.mem m) s) t ∧
      t = (busWrite (ea m s) r (operandRead (.mem m) s)).setP t.cpu.p

/-! ## Branches -/

/-- What a branch does (R320). -/
def branchEffect (taken : Bool) (op8 : Byte) (s t : State) : Prop :=
  let dest : Word := s.cpu.pc + op8.signExtend 16
  let penalty := if s.params.branchPenalty then (if dest.toNat / 256 ≠ s.cpu.pc.toNat / 256 then 2 else 1) else 0
  sameOutside s t ∧ readsAlike s t ∧
    t.cpu = if taken then { s.cpu with pc := dest, countdown := s.cpu.countdown + penalty } else s.cpu

/-! ## The tick -/

/-- The state in which the CPU cycle of a tick begins (R575, R577). -/
def cpuCycleState (s : State) : State :=
  match s.params.tickOrder with
  | .ppuFirst => forwardNmi (dotPart s)
  | .cpuFirst => s

/-- What a tick still does after its CPU cycle (R575, R577). -/
def finishTick (order : TickOrder) (t : State) : State :=
  match order with
  | .ppuFirst => countTick t
  | .cpuFirst => countTick (forwardNmi (dotPart t))

/-- The tick has a CPU cycle that starts at an instruction boundary (R576, R578). -/
def atBoundary (s : State) : Prop := s.clockCounter % 3 = 0 ∧ s.cpu.countdown = 0

/-- How many dots the PPU has run (R451). -/
def Ppu.position (p : Ppu) : Nat := (p.frame * 262 + p.scanline.val) * 341 + p.dot.val

/-! ## The fields of v and t (R49) -/

def coarseX (v : BitVec 15) : BitVec 5 := v.extractLsb' 0 5
def coarseY (v : BitVec 15) : BitVec 5 := v.extractLsb' 5 5
def nametableX (v : BitVec 15) : Bool := v.getLsbD 10
def nametableY (v : BitVec 15) : Bool := v.getLsbD 11
def fineY (v : BitVec 15) : BitVec 3 := v.extractLsb' 12 3

/-! ## Devices -/

/-- The address of PPU register `r`, at any of its mirrors (R83). -/
def isRegister (r : Nat) (a : Word) : Prop := 0x2000 ≤ a.toNat ∧ a.toNat ≤ 0x3FFF ∧ a.toNat % 8 = r

/-- A write at this PPU address takes effect: it lies above the pattern tables, or CHR is RAM (R100, R102). -/
def ppuWritable (cart : Option Cartridge) (a : BitVec 14) : Prop :=
  0x2000 ≤ a.toNat ∨ ∃ c, cart = some c ∧ c.chrBanks = 0

/-- Two PPU addresses name the same cell: the same pattern byte, nametable addresses of the same page and offset (R103),
or palette addresses that fold onto one entry (R104). -/
def samePpuCell (m : Mirroring) (a b : BitVec 14) : Prop :=
  (a.toNat < 0x2000 ∧ b = a) ∨
  (0x2000 ≤ a.toNat ∧ a.toNat < 0x3F00 ∧ 0x2000 ≤ b.toNat ∧ b.toNat < 0x3F00 ∧ a.toNat % 0x400 = b.toNat % 0x400 ∧
    (match m with
     | .horizontal => a.toNat / 0x800 % 2 = b.toNat / 0x800 % 2
     | .vertical => a.toNat / 0x400 % 2 = b.toNat / 0x400 % 2)) ∨
  (0x3F00 ≤ a.toNat ∧ 0x3F00 ≤ b.toNat ∧
    (if a.toNat % 4 = 0 then a.toNat % 16 else a.toNat % 32) = (if b.toNat % 4 = 0 then b.toNat % 16 else b.toNat % 32))

/-- A visible line or the pre-render line (R450). -/
def Ppu.onRenderLine (p : Ppu) : Prop := p.scanline.val ≤ 239 ∨ p.scanline.val = 261

/-- The dots of a render line on which the background pipeline runs (R450, R460). -/
def Ppu.onFetchDot (p : Ppu) : Prop := (1 ≤ p.dot.val ∧ p.dot.val ≤ 256) ∨ (321 ≤ p.dot.val ∧ p.dot.val ≤ 336)

/-- OAM entry `e` covers the next scanline (R466). -/
def coversNextLine (p : Ppu) (e : Nat) : Bool :=
  let y := (Cells.read p.oam (4 * e)).toNat
  let n := (p.scanline.val + 1) % 262
  decide (y ≤ n ∧ n < y + (if p.ctrl.getLsbD 5 then 16 else 8))

/-- The entries that cover the next scanline, in OAM order. -/
def coveringEntries (p : Ppu) : List Nat := (List.range 64).filter (coversNextLine p)

/-! ## Which instructions write what (R30, R38) -/

/-- The flags an instruction may write (R38). -/
def flagsWritten : Instr → List Flag
  | .lda _ | .ldx _ | .ldy _ | .tax | .tay | .txa | .tya | .tsx | .pla => [.n, .z]
  | .and _ | .ora _ | .eor _ | .inc _ | .dec _ | .inx | .iny | .dex | .dey => [.n, .z]
  | .adc _ | .sbc _ => [.n, .v, .z, .c]
  | .cmp _ | .cpx _ | .cpy _ => [.n, .z, .c]
  | .bit _ => [.n, .v, .z]
  | .asl _ | .lsr _ | .rol _ | .ror _ => [.n, .z, .c]
  | .plp | .rti => [.n, .v, .z, .c, .i, .d]
  | .clc | .sec => [.c]
  | .cli | .sei => [.i]
  | .cld | .sed => [.d]
  | .clv => [.v]
  | .brk => [.i]
  | .sta _ | .stx _ | .sty _ | .txs | .pha | .php | .jmp _ | .jsr _ | .rts | .nop | .unassigned _ => []
  | .bcc _ | .bcs _ | .beq _ | .bmi _ | .bne _ | .bpl _ | .bvc _ | .bvs _ => []

/-- The instruction may write A (R30). -/
def writesA : Instr → Bool
  | .lda _ | .txa | .tya | .pla | .adc _ | .sbc _ | .and _ | .ora _ | .eor _ => true
  | .asl .acc | .lsr .acc | .rol .acc | .ror .acc => true
  | _ => false

/-- The instruction may write X (R30). -/
def writesX : Instr → Bool
  | .ldx _ | .tax | .tsx | .inx | .dex => true
  | _ => false

/-- The instruction may write Y (R30). -/
def writesY : Instr → Bool
  | .ldy _ | .tay | .iny | .dey => true
  | _ => false

/-- The instruction may write SP (R31). -/
def writesSp : Instr → Bool
  | .txs | .php | .pha | .pla | .plp | .jsr _ | .rts | .brk | .rti => true
  | _ => false

/-! ## The cartridge's constants (R17, R58) -/

/-- What no step may change of a cartridge. -/
def Cartridge.constants (c : Cartridge) : Mapper × PrgBanks × Nat × Mirroring × Memory × Memory :=
  (c.mapper, c.prgBanks, c.chrBanks, c.mirroring, c.prg, if c.chrBanks = 0 then [] else c.chr)

/-- The configurations R95 accepts. -/
def accepted (image : CartridgeImage) : Prop :=
  (image.mapperId = 0 ∨ image.mapperId = 3) ∧ (image.prgBanks = 1 ∨ image.prgBanks = 2) ∧
    image.prg.length = 16384 * image.prgBanks ∧ (image.mapperId = 0 → image.chrBanks ≤ 1) ∧
    (0 < image.chrBanks → image.chr.length = 8192 * image.chrBanks)

end Sys2Proof.Machine
end

