-- ==== Sys2Proof/Certificates/Slice0/Obligations.lean ====
section
/-! DEFINITION. The statements about the machine, in the order of OBLIGATIONS.json: encoding, fetch and step, the
instructions family by family, the address spaces and devices, the PPU's dot, and the rules of the whole machine. -/

open Sys2Proof Sys2Proof.Machine Sys2Proof.Bits

/-! ## Encoding -/

/-- Decode and encode agree: every well-formed instruction has an encoding, and decoding it gives the instruction
back, whatever bytes follow (R140, R141, R142); whatever decodes is a well-formed instruction, and the bytes taken are
exactly its encoding. -/
def Obligations.DecodeAndEncodeAgree : Prop :=
  (∀ (i : Instr) (rest : List Byte), i.wellFormed = true →
    ∃ bs, encode i = some bs ∧ decode (bs ++ rest) = .ok (i, rest)) ∧
  (∀ (bytes : List Byte) (i : Instr) (rest : List Byte), decode bytes = .ok (i, rest) →
    i.wellFormed = true ∧ ∃ bs, encode i = some bs ∧ bytes = bs ++ rest)

/-- The opcode byte alone selects the dispatch entry, and every byte value has one, the unassigned ones the default
entry (R142): mnemonic and mode (through the opcode that they have in the table) and length do not depend on what
follows the opcode, and the base cycle count is the one the grid of R145 gives the opcode. So every well-formed
instruction, whatever its operand bytes, has the base cycles of its opcode's cell. -/
def Obligations.OpcodeAloneSelectsTheEntry : Prop :=
  (∀ op b1 b2 : Byte,
    (dispatch op b1 b2).opcode = some op ∧ (dispatch op b1 b2).wellFormed = true ∧
    (dispatch op b1 b2).mode = (dispatch op 0 0).mode ∧
    (dispatch op b1 b2).operandBytes = operandCount op ∧
    gridCycles op = some (dispatch op b1 b2).baseCycles ∧
    (op.toNat ∈ unassignedOpcodes → dispatch op b1 b2 = .unassigned op) ∧
    ∀ rest, decode (op :: b1 :: b2 :: rest) = .ok (dispatch op b1 b2, (b1 :: b2 :: rest).drop (operandCount op))) ∧
  (∀ i : Instr, i.wellFormed = true → ∃ op, i.opcode = some op ∧ gridCycles op = some i.baseCycles)

/-- Words written out from the encodings of the spec decode to the instructions they stand for. -/
def Obligations.SpecWordsDecode : Prop :=
  decode [0xA9, 0x80] = .ok (.lda (.imm 0x80), []) ∧
  decode [0xAD, 0x34, 0x12] = .ok (.lda (.mem (.abs 0x1234)), []) ∧
  decode [0xB6, 0xFF] = .ok (.ldx (.mem (.zpy 0xFF)), []) ∧
  decode [0x91, 0x20] = .ok (.sta (.izy 0x20), []) ∧
  decode [0x61, 0xFE] = .ok (.adc (.mem (.izx 0xFE)), []) ∧
  decode [0xDD, 0xF0, 0x12] = .ok (.cmp (.mem (.abx 0x12F0)), []) ∧
  decode [0x0A] = .ok (.asl .acc, []) ∧
  decode [0x6E, 0x00, 0x03] = .ok (.ror (.mem (.abs 0x0300)), []) ∧
  decode [0x08] = .ok (.php, []) ∧
  decode [0xD0, 0xFC] = .ok (.bne 0xFC, []) ∧
  decode [0x6C, 0xFF, 0x02] = .ok (.jmp (.ind 0x02FF), []) ∧
  decode [0x78] = .ok (.sei, []) ∧
  decode [0x04, 0x10] = .ok (.unassigned 0x04, [0x10])

/-! ## Fetch and step -/

/-- Every fetch gives one whole instruction and moves PC past it; where the instruction's bytes stand in memory they are
the bytes at PC, PC + 1 and PC + 2, and nothing else changes. -/
def Obligations.FetchReadsTheBytesAtPc : Prop :=
  ∀ s : State,
    (∃ i, decode (fetchInstruction s).bytes = .ok (i, [])) ∧
    (fetchInstruction s).after.cpu =
      { s.cpu with pc := s.cpu.pc + BitVec.ofNat 16 (1 + operandCount (busRead s.cpu.pc s)) } ∧
    ((∀ k, k ≤ operandCount (busRead s.cpu.pc s) → canHoldCode (s.cpu.pc + BitVec.ofNat 16 k) = true) →
      (fetchInstruction s).bytes =
        [busRead s.cpu.pc s, busRead (s.cpu.pc + 1) s, busRead (s.cpu.pc + 2) s].take
          (1 + operandCount (busRead s.cpu.pc s)) ∧
      sameOutside s (fetchInstruction s).after)

/-- A tick whose CPU cycle starts at an instruction boundary with no NMI pending runs the instruction whose bytes are
fetched at PC: the countdown is loaded with its base cycles, the instruction is executed, one cycle is counted, and the
tick is finished. -/
def Obligations.StepRunsTheDecodedInstruction : Prop :=
  ∀ (s : State) (i : Instr), atBoundary s → (cpuCycleState s).cpu.nmiPending = false →
    decode (fetchInstruction (cpuCycleState s)).bytes = .ok (i, []) →
    step s =
      andThen (exec i ((fetchInstruction (cpuCycleState s)).after.setCountdown i.baseCycles)) fun t =>
        finishTick s.params.tickOrder (countDown t)

/-- A tick without an instruction: one dot of the PPU, the NMI forward, and on every third tick one cycle counted. -/
def Obligations.TickWithoutAnInstruction : Prop :=
  ∀ s : State, ¬ atBoundary s →
    ∃ t, step s = .next t ∧
      t.ppu = { ppuDot s.cart s.ppu with nmiOut := false } ∧
      t.cpu = { s.cpu with
        countdown := if s.clockCounter % 3 = 0 then s.cpu.countdown - 1 else s.cpu.countdown
        nmiPending := s.cpu.nmiPending || (ppuDot s.cart s.ppu).nmiOut } ∧
      t.clockCounter = s.clockCounter + 1 ∧ t.ram = s.ram ∧ t.bringupRam = s.bringupRam ∧ t.cart = s.cart ∧
      t.ctl = s.ctl ∧ t.params = s.params

/-- The NMI is serviced at an instruction boundary only (R523): there the NMI sequence runs instead of a fetch and the
latch is cleared; with nothing pending the boundary fetches; while the countdown is above 0 a request waits, and PC does
not move. -/
def Obligations.NmiIsServicedAtTheBoundary : Prop :=
  ∀ s : State,
    (atBoundary s → (cpuCycleState s).cpu.nmiPending = true →
      step s = .next (finishTick s.params.tickOrder (countDown (enterNmi (cpuCycleState s)))) ∧
      (enterNmi (cpuCycleState s)).cpu.nmiPending = false) ∧
    (atBoundary s → (cpuCycleState s).cpu.nmiPending = false →
      step s = andThen (executeInstruction (cpuCycleState s)) fun t => finishTick s.params.tickOrder (countDown t)) ∧
    (0 < s.cpu.countdown → ∃ t, step s = .next t ∧ t.cpu.pc = s.cpu.pc ∧
      (s.cpu.nmiPending = true → t.cpu.nmiPending = true))

/-- The NMI sequence (R524). -/
def Obligations.NmiEntry : Prop :=
  ∀ s : State, s.inv = true →
    interruptEffect s.cpu.pc false 0xFFFA s (enterNmi s) ∧
    (enterNmi s).cpu.nmiPending = false ∧ (enterNmi s).cpu.countdown = 7

/-! ## Control transfer -/

/-- BRK (R334). -/
def Obligations.BreakIsASoftwareInterrupt : Prop :=
  encode .brk = some [0x00] ∧ Instr.brk.baseCycles = 7 ∧
  ∀ s : State, s.inv = true →
    ∃ t, exec .brk s = .next t ∧ interruptEffect (s.cpu.pc + 1) true 0xFFFE s t ∧
      t.cpu.countdown = s.cpu.countdown ∧ t.cpu.nmiPending = s.cpu.nmiPending

/-- RTI (R333): the status byte, then PC low, then PC high, pulled from the three slots above SP. -/
def Obligations.ReturnFromInterrupt : Prop :=
  encode .rti = some [0x40] ∧
  ∀ s : State, ∃ t, exec .rti s = .next t ∧
    (∀ f, t.flag f = if f = .b then false else if f = .u then true else getFlag f (stackByte (s.cpu.sp + 1) s)) ∧
    t.cpu = { s.cpu with
      sp := s.cpu.sp + 3
      pc := word (stackByte (s.cpu.sp + 3) s) (stackByte (s.cpu.sp + 2) s)
      p := t.cpu.p } ∧
    sameOutside s t ∧ readsAlike s t

/-- A handler that leaves SP and the three stacked bytes as the entry left them, whatever else it does, resumes by RTI
with the P, the PC and the SP of before the entry: after an NMI at the instruction that was about to be fetched, after
BRK at BRK + 2. The spec marks this rule, R529, as derived from R524 and R333. -/
def Obligations.HandlerReturnRestoresPAndPc : Prop :=
  ∀ s h u : State, s.inv = true →
    (h.cpu.sp = (enterNmi s).cpu.sp →
      (∀ sp ∈ [s.cpu.sp, s.cpu.sp - 1, s.cpu.sp - 2], stackByte sp h = stackByte sp (enterNmi s)) →
      ∃ t, exec .rti h = .next t ∧ t.cpu.p = s.cpu.p ∧ t.cpu.pc = s.cpu.pc ∧ t.cpu.sp = s.cpu.sp) ∧
    (exec .brk s = .next u → h.cpu.sp = u.cpu.sp →
      (∀ sp ∈ [s.cpu.sp, s.cpu.sp - 1, s.cpu.sp - 2], stackByte sp h = stackByte sp u) →
      ∃ t, exec .rti h = .next t ∧ t.cpu.p = s.cpu.p ∧ t.cpu.pc = s.cpu.pc + 1 ∧ t.cpu.sp = s.cpu.sp)

/-- JSR (R331): the address of its last byte goes on the stack, high byte first. -/
def Obligations.JumpToSubroutine : Prop :=
  ∀ (target : Word) (s : State), s.inv = true →
    encode (.jsr target) = some [0x20, loByte target, hiByte target] ∧
    ∃ t, exec (.jsr target) s = .next t ∧
      t.cpu = { s.cpu with sp := s.cpu.sp - 2, pc := target } ∧
      slotHolds s.cpu.sp (hiByte (s.cpu.pc - 1)) t ∧ slotHolds (s.cpu.sp - 1) (loByte (s.cpu.pc - 1)) t ∧
      readsAlikeExcept [stackSlot s.cpu.sp, stackSlot (s.cpu.sp - 1)] s t ∧ sameButRam s t

/-- RTS (R332): the word pulled, low byte first, and incremented. -/
def Obligations.ReturnFromSubroutine : Prop :=
  encode .rts = some [0x60] ∧
  ∀ s : State, ∃ t, exec .rts s = .next t ∧
    t.cpu = { s.cpu with
      sp := s.cpu.sp + 2
      pc := word (stackByte (s.cpu.sp + 2) s) (stackByte (s.cpu.sp + 1) s) + 1 } ∧
    sameOutside s t ∧ readsAlike s t

/-- The eight conditional branches, of 2 base cycles each, and their one routine (R320 to R328). -/
def Obligations.BranchesTestOneFlag : Prop :=
  ∀ (op8 : Byte) (s : State),
    (∀ i ∈ [Instr.bcc op8, .bcs op8, .beq op8, .bmi op8, .bne op8, .bpl op8, .bvc op8, .bvs op8], i.baseCycles = 2) ∧
    (encode (.bcc op8) = some [0x90, op8] ∧ ∃ t, exec (.bcc op8) s = .next t ∧ branchEffect (!s.flag .c) op8 s t) ∧
    (encode (.bcs op8) = some [0xB0, op8] ∧ ∃ t, exec (.bcs op8) s = .next t ∧ branchEffect (s.flag .c) op8 s t) ∧
    (encode (.beq op8) = some [0xF0, op8] ∧ ∃ t, exec (.beq op8) s = .next t ∧ branchEffect (s.flag .z) op8 s t) ∧
    (encode (.bmi op8) = some [0x30, op8] ∧ ∃ t, exec (.bmi op8) s = .next t ∧ branchEffect (s.flag .n) op8 s t) ∧
    (encode (.bne op8) = some [0xD0, op8] ∧ ∃ t, exec (.bne op8) s = .next t ∧ branchEffect (!s.flag .z) op8 s t) ∧
    (encode (.bpl op8) = some [0x10, op8] ∧ ∃ t, exec (.bpl op8) s = .next t ∧ branchEffect (!s.flag .n) op8 s t) ∧
    (encode (.bvc op8) = some [0x50, op8] ∧ ∃ t, exec (.bvc op8) s = .next t ∧ branchEffect (!s.flag .v) op8 s t) ∧
    (encode (.bvs op8) = some [0x70, op8] ∧ ∃ t, exec (.bvs op8) s = .next t ∧ branchEffect (s.flag .v) op8 s t)

/-- JMP, absolute and indirect (R329, R330): the high byte of an indirect target comes from the next address, but from
the start of the same page where the pointer's low byte is 0xFF (R180). -/
def Obligations.JumpsLoadPc : Prop :=
  ∀ (w : Word) (s : State),
    (encode (.jmp (.abs w)) = some [0x4C, loByte w, hiByte w] ∧ (Instr.jmp (.abs w)).baseCycles = 3 ∧
      ∃ t, exec (.jmp (.abs w)) s = .next t ∧ t.cpu = { s.cpu with pc := w } ∧ sameOutside s t ∧ readsAlike s t) ∧
    (encode (.jmp (.ind w)) = some [0x6C, loByte w, hiByte w] ∧ (Instr.jmp (.ind w)).baseCycles = 5 ∧
      ∃ (t : State) (w2 : Word),
        w2.toNat = (if w.toNat % 256 = 255 then w.toNat - 255 else w.toNat + 1) ∧
        exec (.jmp (.ind w)) s = .next t ∧
        t.cpu = { s.cpu with pc := word (busRead w2 (afterRead w s)) (busRead w s) } ∧
        sameOutside (afterRead w2 (afterRead w s)) t ∧ memoryReadsAlike s t)

/-! ## Loads, stores and transfers -/

/-- LDA, LDX and LDY (R200, R201, R202). -/
def Obligations.LoadsWriteTheRegister : Prop :=
  ∀ (o : Src) (s : State),
    ((Instr.lda o).opcode = [(ModeName.imm, (0xA9 : Byte)), (.zp0, 0xA5), (.zpx, 0xB5), (.abs, 0xAD), (.abx, 0xBD),
        (.aby, 0xB9), (.izx, 0xA1), (.izy, 0xB1)].lookup o.name ∧
      ∃ t, exec (.lda o) s = .next t ∧ leavesAfterRead o s { s.cpu with a := operandByte o s } t ∧
        setsNZ (operandByte o s) [.n, .z] s t) ∧
    ((Instr.ldx o).opcode = [(ModeName.imm, (0xA2 : Byte)), (.zp0, 0xA6), (.zpy, 0xB6), (.abs, 0xAE),
        (.aby, 0xBE)].lookup o.name ∧
      ∃ t, exec (.ldx o) s = .next t ∧ leavesAfterRead o s { s.cpu with x := operandByte o s } t ∧
        setsNZ (operandByte o s) [.n, .z] s t) ∧
    ((Instr.ldy o).opcode = [(ModeName.imm, (0xA0 : Byte)), (.zp0, 0xA4), (.zpx, 0xB4), (.abs, 0xAC),
        (.abx, 0xBC)].lookup o.name ∧
      ∃ t, exec (.ldy o) s = .next t ∧ leavesAfterRead o s { s.cpu with y := operandByte o s } t ∧
        setsNZ (operandByte o s) [.n, .z] s t)

/-- STA, STX and STY (R203, R204, R205): exactly one bus write at the effective address, and no read of it. -/
def Obligations.StoresWriteTheAddress : Prop :=
  ∀ (o : MemMode) (s : State), s.inv = true →
    ((Instr.sta o).opcode = [(ModeName.zp0, (0x85 : Byte)), (.zpx, 0x95), (.abs, 0x8D), (.abx, 0x9D), (.aby, 0x99),
        (.izx, 0x81), (.izy, 0x91)].lookup o.name ∧
      exec (.sta o) s = .next (busWrite (ea o s) s.cpu.a s) ∧
      storeEffect (ea o s) s.cpu.a s (busWrite (ea o s) s.cpu.a s) ∧ (busWrite (ea o s) s.cpu.a s).cpu.p = s.cpu.p) ∧
    ((Instr.stx o).opcode = [(ModeName.zp0, (0x86 : Byte)), (.zpy, 0x96), (.abs, 0x8E)].lookup o.name ∧
      exec (.stx o) s = .next (busWrite (ea o s) s.cpu.x s) ∧
      storeEffect (ea o s) s.cpu.x s (busWrite (ea o s) s.cpu.x s) ∧ (busWrite (ea o s) s.cpu.x s).cpu.p = s.cpu.p) ∧
    ((Instr.sty o).opcode = [(ModeName.zp0, (0x84 : Byte)), (.zpx, 0x94), (.abs, 0x8C)].lookup o.name ∧
      exec (.sty o) s = .next (busWrite (ea o s) s.cpu.y s) ∧
      storeEffect (ea o s) s.cpu.y s (busWrite (ea o s) s.cpu.y s) ∧ (busWrite (ea o s) s.cpu.y s).cpu.p = s.cpu.p)

/-- The six register transfers (R206 to R211): TXS alone writes no flag. -/
def Obligations.TransfersCopyARegister : Prop :=
  encode .tax = some [0xAA] ∧ encode .tay = some [0xA8] ∧ encode .txa = some [0x8A] ∧ encode .tya = some [0x98] ∧
  encode .tsx = some [0xBA] ∧ encode .txs = some [0x9A] ∧
  ∀ s : State,
    (∃ t, exec .tax s = .next t ∧ leaves s { s.cpu with x := s.cpu.a } t ∧ setsNZ s.cpu.a [.n, .z] s t) ∧
    (∃ t, exec .tay s = .next t ∧ leaves s { s.cpu with y := s.cpu.a } t ∧ setsNZ s.cpu.a [.n, .z] s t) ∧
    (∃ t, exec .txa s = .next t ∧ leaves s { s.cpu with a := s.cpu.x } t ∧ setsNZ s.cpu.x [.n, .z] s t) ∧
    (∃ t, exec .tya s = .next t ∧ leaves s { s.cpu with a := s.cpu.y } t ∧ setsNZ s.cpu.y [.n, .z] s t) ∧
    (∃ t, exec .tsx s = .next t ∧ leaves s { s.cpu with x := s.cpu.sp } t ∧ setsNZ s.cpu.sp [.n, .z] s t) ∧
    (∃ t, exec .txs s = .next t ∧ leaves s { s.cpu with sp := s.cpu.x } t ∧ flagsKept [] s t)

/-! ## Arithmetic and logic -/

/-- ADC (R230): a binary sum whatever the Decimal flag holds. -/
def Obligations.AddWithCarry : Prop :=
  ∀ (o : Src) (s : State),
    (Instr.adc o).opcode = [(ModeName.imm, (0x69 : Byte)), (.zp0, 0x65), (.zpx, 0x75), (.abs, 0x6D), (.abx, 0x7D),
        (.aby, 0x79), (.izx, 0x61), (.izy, 0x71)].lookup o.name ∧
    ∃ (t : State) (r : Byte),
      let m := operandByte o s
      let total := s.cpu.a.toNat + m.toNat + (if s.flag .c then 1 else 0)
      exec (.adc o) s = .next t ∧ r.toNat = total % 256 ∧ leavesAfterRead o s { s.cpu with a := r } t ∧
      t.flag .c = decide (255 < total) ∧
      t.flag .v = decide ((~~~(s.cpu.a ^^^ m) &&& (s.cpu.a ^^^ r) &&& 0x80) ≠ 0) ∧
      (t.flag .v = true ↔ s.cpu.a.getLsbD 7 = m.getLsbD 7 ∧ r.getLsbD 7 ≠ s.cpu.a.getLsbD 7) ∧
      setsNZ r [.n, .z, .c, .v] s t

/-- SBC (R231): C is the complement of the borrow, on entry and on exit. -/
def Obligations.SubtractWithBorrow : Prop :=
  ∀ (o : Src) (s : State),
    (Instr.sbc o).opcode = [(ModeName.imm, (0xE9 : Byte)), (.zp0, 0xE5), (.zpx, 0xF5), (.abs, 0xED), (.abx, 0xFD),
        (.aby, 0xF9), (.izx, 0xE1), (.izy, 0xF1)].lookup o.name ∧
    ∃ (t : State) (r : Byte),
      let m := operandByte o s
      let borrow := if s.flag .c then 0 else 1
      exec (.sbc o) s = .next t ∧ r = s.cpu.a - m - BitVec.ofNat 8 borrow ∧
      leavesAfterRead o s { s.cpu with a := r } t ∧
      t.flag .c = decide (m.toNat + borrow ≤ s.cpu.a.toNat) ∧
      t.flag .v = decide (((s.cpu.a ^^^ m) &&& (s.cpu.a ^^^ r) &&& 0x80) ≠ 0) ∧
      setsNZ r [.n, .z, .c, .v] s t

/-- AND, ORA and EOR (R232, R233, R234). -/
def Obligations.LogicCombinesWithA : Prop :=
  ∀ (o : Src) (s : State),
    ((Instr.and o).opcode = [(ModeName.imm, (0x29 : Byte)), (.zp0, 0x25), (.zpx, 0x35), (.abs, 0x2D), (.abx, 0x3D),
        (.aby, 0x39), (.izx, 0x21), (.izy, 0x31)].lookup o.name ∧
      ∃ t, exec (.and o) s = .next t ∧ leavesAfterRead o s { s.cpu with a := s.cpu.a &&& operandByte o s } t ∧
        setsNZ (s.cpu.a &&& operandByte o s) [.n, .z] s t) ∧
    ((Instr.ora o).opcode = [(ModeName.imm, (0x09 : Byte)), (.zp0, 0x05), (.zpx, 0x15), (.abs, 0x0D), (.abx, 0x1D),
        (.aby, 0x19), (.izx, 0x01), (.izy, 0x11)].lookup o.name ∧
      ∃ t, exec (.ora o) s = .next t ∧ leavesAfterRead o s { s.cpu with a := s.cpu.a ||| operandByte o s } t ∧
        setsNZ (s.cpu.a ||| operandByte o s) [.n, .z] s t) ∧
    ((Instr.eor o).opcode = [(ModeName.imm, (0x49 : Byte)), (.zp0, 0x45), (.zpx, 0x55), (.abs, 0x4D), (.abx, 0x5D),
        (.aby, 0x59), (.izx, 0x41), (.izy, 0x51)].lookup o.name ∧
      ∃ t, exec (.eor o) s = .next t ∧ leavesAfterRead o s { s.cpu with a := s.cpu.a ^^^ operandByte o s } t ∧
        setsNZ (s.cpu.a ^^^ operandByte o s) [.n, .z] s t)

/-- BIT (R235): N and V come from the operand, Z from A AND operand, and A is kept. -/
def Obligations.BitTestsMemory : Prop :=
  ∀ (o : MemMode) (s : State),
    (Instr.bit o).opcode = [(ModeName.zp0, (0x24 : Byte)), (.abs, 0x2C)].lookup o.name ∧
    ∃ t, exec (.bit o) s = .next t ∧
      t.cpu = { s.cpu with p := t.cpu.p } ∧ readsOperandOnly (.mem o) s t ∧
      t.flag .z = decide (s.cpu.a &&& operandByte (.mem o) s = 0) ∧
      t.flag .n = (operandByte (.mem o) s).getLsbD 7 ∧ t.flag .v = (operandByte (.mem o) s).getLsbD 6 ∧
      flagsKept [.n, .v, .z] s t

/-- CMP, CPX and CPY (R236, R237, R238, R246). -/
def Obligations.ComparesWriteFlagsOnly : Prop :=
  ∀ (o : Src) (s : State),
    ((Instr.cmp o).opcode = [(ModeName.imm, (0xC9 : Byte)), (.zp0, 0xC5), (.zpx, 0xD5), (.abs, 0xCD), (.abx, 0xDD),
        (.aby, 0xD9), (.izx, 0xC1), (.izy, 0xD1)].lookup o.name ∧
      ∃ t, exec (.cmp o) s = .next t ∧ leavesAfterRead o s s.cpu t ∧ compares s.cpu.a (operandByte o s) s t) ∧
    ((Instr.cpx o).opcode = [(ModeName.imm, (0xE0 : Byte)), (.zp0, 0xE4), (.abs, 0xEC)].lookup o.name ∧
      ∃ t, exec (.cpx o) s = .next t ∧ leavesAfterRead o s s.cpu t ∧ compares s.cpu.x (operandByte o s) s t) ∧
    ((Instr.cpy o).opcode = [(ModeName.imm, (0xC0 : Byte)), (.zp0, 0xC4), (.abs, 0xCC)].lookup o.name ∧
      ∃ t, exec (.cpy o) s = .next t ∧ leavesAfterRead o s s.cpu t ∧ compares s.cpu.y (operandByte o s) s t)

/-- INC and DEC (R239, R240): one read, one write, N and Z of the result, which wraps. -/
def Obligations.IncrementsOfMemory : Prop :=
  ∀ (o : MemMode) (s : State), s.inv = true →
    ((Instr.inc o).opcode = [(ModeName.zp0, (0xE6 : Byte)), (.zpx, 0xF6), (.abs, 0xEE), (.abx, 0xFE)].lookup o.name ∧
      ∃ t, exec (.inc o) s = .next t ∧ rmwEffect (.mem o) (operandByte (.mem o) s + 1) s t ∧
        setsNZ (operandByte (.mem o) s + 1) [.n, .z] s t) ∧
    ((Instr.dec o).opcode = [(ModeName.zp0, (0xC6 : Byte)), (.zpx, 0xD6), (.abs, 0xCE), (.abx, 0xDE)].lookup o.name ∧
      ∃ t, exec (.dec o) s = .next t ∧ rmwEffect (.mem o) (operandByte (.mem o) s - 1) s t ∧
        setsNZ (operandByte (.mem o) s - 1) [.n, .z] s t)

/-- INX, INY, DEX and DEY (R241 to R244). -/
def Obligations.IncrementsOfRegisters : Prop :=
  encode .inx = some [0xE8] ∧ encode .iny = some [0xC8] ∧ encode .dex = some [0xCA] ∧ encode .dey = some [0x88] ∧
  ∀ s : State,
    (∃ t, exec .inx s = .next t ∧ leaves s { s.cpu with x := s.cpu.x + 1 } t ∧ setsNZ (s.cpu.x + 1) [.n, .z] s t) ∧
    (∃ t, exec .iny s = .next t ∧ leaves s { s.cpu with y := s.cpu.y + 1 } t ∧ setsNZ (s.cpu.y + 1) [.n, .z] s t) ∧
    (∃ t, exec .dex s = .next t ∧ leaves s { s.cpu with x := s.cpu.x - 1 } t ∧ setsNZ (s.cpu.x - 1) [.n, .z] s t) ∧
    (∃ t, exec .dey s = .next t ∧ leaves s { s.cpu with y := s.cpu.y - 1 } t ∧ setsNZ (s.cpu.y - 1) [.n, .z] s t)

/-- ASL, LSR, ROL and ROR on A and on memory (R280 to R284). -/
def Obligations.ShiftsMoveOneBit : Prop :=
  ∀ (o : Rmw) (s : State), s.inv = true →
    ((Instr.asl o).opcode = [(ModeName.imp, (0x0A : Byte)), (.zp0, 0x06), (.zpx, 0x16), (.abs, 0x0E),
        (.abx, 0x1E)].lookup o.name ∧
      ∃ (t : State) (r : Byte), exec (.asl o) s = .next t ∧ movedUp false (rmwByte o s) r ∧ rmwEffect o r s t ∧
        t.flag .c = (rmwByte o s).getLsbD 7 ∧ setsNZ r [.n, .z, .c] s t) ∧
    ((Instr.lsr o).opcode = [(ModeName.imp, (0x4A : Byte)), (.zp0, 0x46), (.zpx, 0x56), (.abs, 0x4E),
        (.abx, 0x5E)].lookup o.name ∧
      ∃ (t : State) (r : Byte), exec (.lsr o) s = .next t ∧ movedDown false (rmwByte o s) r ∧ rmwEffect o r s t ∧
        t.flag .c = (rmwByte o s).getLsbD 0 ∧ setsNZ r [.n, .z, .c] s t) ∧
    ((Instr.rol o).opcode = [(ModeName.imp, (0x2A : Byte)), (.zp0, 0x26), (.zpx, 0x36), (.abs, 0x2E),
        (.abx, 0x3E)].lookup o.name ∧
      ∃ (t : State) (r : Byte), exec (.rol o) s = .next t ∧ movedUp (s.flag .c) (rmwByte o s) r ∧ rmwEffect o r s t ∧
        t.flag .c = (rmwByte o s).getLsbD 7 ∧ setsNZ r [.n, .z, .c] s t) ∧
    ((Instr.ror o).opcode = [(ModeName.imp, (0x6A : Byte)), (.zp0, 0x66), (.zpx, 0x76), (.abs, 0x6E),
        (.abx, 0x7E)].lookup o.name ∧
      ∃ (t : State) (r : Byte), exec (.ror o) s = .next t ∧ movedDown (s.flag .c) (rmwByte o s) r ∧ rmwEffect o r s t ∧
        t.flag .c = (rmwByte o s).getLsbD 0 ∧ setsNZ r [.n, .z, .c] s t)

/-! ## Stack, flags, NOP and unassigned opcodes -/

/-- PHA and PHP (R302, R303): one byte at SP, then SP goes down by one, modulo 256. -/
def Obligations.PushesStoreAtSp : Prop :=
  encode .pha = some [0x48] ∧ encode .php = some [0x08] ∧
  ∀ s : State, s.inv = true →
    (∃ t, exec .pha s = .next t ∧ t.cpu = { s.cpu with sp := s.cpu.sp - 1 } ∧ slotHolds s.cpu.sp s.cpu.a t ∧
      readsAlikeExcept [stackSlot s.cpu.sp] s t ∧ sameButRam s t) ∧
    (∃ (t : State) (status : Byte), exec .php s = .next t ∧ t.cpu = { s.cpu with sp := s.cpu.sp - 1 } ∧
      slotHolds s.cpu.sp status t ∧ (∀ f, getFlag f status = if f = .b ∨ f = .u then true else s.flag f) ∧
      readsAlikeExcept [stackSlot s.cpu.sp] s t ∧ sameButRam s t)

/-- PLA and PLP (R304, R305): SP goes up by one, modulo 256, and its byte is read. -/
def Obligations.PullsReadAboveSp : Prop :=
  encode .pla = some [0x68] ∧ encode .plp = some [0x28] ∧
  ∀ s : State,
    (∃ t, exec .pla s = .next t ∧
      leaves s { s.cpu with a := stackByte (s.cpu.sp + 1) s, sp := s.cpu.sp + 1 } t ∧
      setsNZ (stackByte (s.cpu.sp + 1) s) [.n, .z] s t) ∧
    (∃ t, exec .plp s = .next t ∧ leaves s { s.cpu with sp := s.cpu.sp + 1 } t ∧
      ∀ f, t.flag f = if f = .b then false else if f = .u then true else getFlag f (stackByte (s.cpu.sp + 1) s))

/-- The seven flag instructions and NOP (R360 to R367). -/
def Obligations.FlagInstructionsWriteOneFlag : Prop :=
  encode .clc = some [0x18] ∧ encode .sec = some [0x38] ∧ encode .cli = some [0x58] ∧ encode .sei = some [0x78] ∧
  encode .cld = some [0xD8] ∧ encode .sed = some [0xF8] ∧ encode .clv = some [0xB8] ∧ encode .nop = some [0xEA] ∧
  Instr.nop.baseCycles = 2 ∧
  ∀ s : State,
    (∃ t, exec .clc s = .next t ∧ leaves s s.cpu t ∧ t.flag .c = false ∧ flagsKept [.c] s t) ∧
    (∃ t, exec .sec s = .next t ∧ leaves s s.cpu t ∧ t.flag .c = true ∧ flagsKept [.c] s t) ∧
    (∃ t, exec .cli s = .next t ∧ leaves s s.cpu t ∧ t.flag .i = false ∧ flagsKept [.i] s t) ∧
    (∃ t, exec .sei s = .next t ∧ leaves s s.cpu t ∧ t.flag .i = true ∧ flagsKept [.i] s t) ∧
    (∃ t, exec .cld s = .next t ∧ leaves s s.cpu t ∧ t.flag .d = false ∧ flagsKept [.d] s t) ∧
    (∃ t, exec .sed s = .next t ∧ leaves s s.cpu t ∧ t.flag .d = true ∧ flagsKept [.d] s t) ∧
    (∃ t, exec .clv s = .next t ∧ leaves s s.cpu t ∧ t.flag .v = false ∧ flagsKept [.v] s t) ∧
    exec .nop s = .next s

/-- Unassigned opcodes (R368): one byte, two cycles and no effect; under ILLEGAL_OPCODE_POLICY = refuse, no successor.
-/
def Obligations.UnassignedOpcodesDoNothing : Prop :=
  ∀ (op : Byte) (s : State), op.toNat ∈ unassignedOpcodes →
    (∀ rest, decode (op :: rest) = .ok (.unassigned op, rest)) ∧ (Instr.unassigned op).baseCycles = 2 ∧
    (s.params.illegalPolicy = .nop → exec (.unassigned op) s = .next s) ∧
    (s.params.illegalPolicy = .refuse → exec (.unassigned op) s = .refused (.illegalOpcode op))

/-! ## The address spaces -/

/-- The effective addresses (R173 to R182) as integers: where a sum wraps within page 0 and where it carries;
computing one has no side effect. -/
def Obligations.EffectiveAddresses : Prop :=
  ∀ (b : Byte) (w : Word) (s : State),
    (ea (.zp0 b) s).toNat = b.toNat ∧
    (ea (.zpx b) s).toNat = (b.toNat + s.cpu.x.toNat) % 256 ∧
    (ea (.zpy b) s).toNat = (b.toNat + s.cpu.y.toNat) % 256 ∧
    ea (.abs w) s = w ∧
    (ea (.abx w) s).toNat = (w.toNat + s.cpu.x.toNat) % 65536 ∧
    (ea (.aby w) s).toNat = (w.toNat + s.cpu.y.toNat) % 65536 ∧
    (ea (.izx b) s).toNat =
      (Cells.read s.ram ((b.toNat + s.cpu.x.toNat) % 256)).toNat +
        256 * (Cells.read s.ram ((b.toNat + s.cpu.x.toNat + 1) % 256)).toNat ∧
    (ea (.izy b) s).toNat =
      ((Cells.read s.ram b.toNat).toNat + 256 * (Cells.read s.ram ((b.toNat + 1) % 256)).toNat + s.cpu.y.toNat) % 65536 ∧
    ∀ m, afterEa m s = s

/-- The page-cross penalty (R184): none with PAGE_CROSS_PENALTY = false; with true, one cycle for a read in ABX, ABY
or IZY whose index carries into the high byte. The value true is the spec's alternative, from general knowledge. -/
def Obligations.PageCrossPenalty : Prop :=
  ∀ (m : MemMode) (b : Byte) (w : Word) (s : State),
    (s.params.pageCrossPenalty = false → pageCrossCycles m s = 0) ∧
    (s.params.pageCrossPenalty = true →
      pageCrossCycles (.zp0 b) s = 0 ∧ pageCrossCycles (.zpx b) s = 0 ∧ pageCrossCycles (.zpy b) s = 0 ∧
      pageCrossCycles (.abs w) s = 0 ∧ pageCrossCycles (.izx b) s = 0 ∧
      pageCrossCycles (.abx w) s = (if w.toNat % 256 + s.cpu.x.toNat < 256 then 0 else 1) ∧
      pageCrossCycles (.aby w) s = (if w.toNat % 256 + s.cpu.y.toNat < 256 then 0 else 1) ∧
      pageCrossCycles (.izy b) s = (if (Cells.read s.ram b.toNat).toNat + s.cpu.y.toNat < 256 then 0 else 1))

/-- The CPU read decode (R80, R82, R84, R87, R88, R91): what an address outside the devices reads, and that only the
PPU registers PPUSTATUS and PPUDATA and the controller ports have a read side effect (R112). The CPU write decode
outside the devices (R81, R82, R84, R87, R89, R90, R91, R94): RAM takes the byte at all four mirrors; the APU window,
the unmapped range and PRG of the fixed variant ignore it; PRG of the switchable variant selects a CHR bank; bring-up
RAM takes it. -/
def Obligations.BusReadAndWriteDecode : Prop :=
  (∀ (a : Word) (s : State),
     (a.toNat ≤ 0x1FFF → busRead a s = Cells.read s.ram (a.toNat % 0x800)) ∧
     (0x2000 ≤ a.toNat → a.toNat ≤ 0x3FFF → busRead a s = ppuRegReadByte s.cart s.ppu (a.toNat % 8)) ∧
     (0x4000 ≤ a.toNat → a.toNat ≤ 0x7FFF → a.toNat ≠ 0x4016 → a.toNat ≠ 0x4017 → busRead a s = 0) ∧
     (0x8000 ≤ a.toNat → s.cart = none → busRead a s = Cells.read s.bringupRam (a.toNat - 0x8000)) ∧
     (∀ c, 0x8000 ≤ a.toNat → s.cart = some c →
       busRead a s = Cells.read c.prg (if c.prgBanks = .one then a.toNat % 0x4000 else a.toNat % 0x8000)) ∧
     (¬ isRegister 2 a → ¬ isRegister 7 a → a.toNat ≠ 0x4016 → a.toNat ≠ 0x4017 → afterRead a s = s)) ∧
  (∀ (a : Word) (v : Byte) (s : State), s.inv = true →
     (a.toNat ≤ 0x1FFF → ∃ ram, busWrite a v s = { s with ram := ram } ∧
       (∀ b : Word, b.toNat ≤ 0x1FFF →
         busRead b (busWrite a v s) = if b.toNat % 0x800 = a.toNat % 0x800 then v else busRead b s)) ∧
     (0x4000 ≤ a.toNat → a.toNat ≤ 0x7FFF → a.toNat ≠ 0x4014 → a.toNat ≠ 0x4016 → busWrite a v s = s) ∧
     (0x8000 ≤ a.toNat → s.cart = none → ∃ m, busWrite a v s = { s with bringupRam := m } ∧
       (∀ b : Word, 0x8000 ≤ b.toNat → busRead b (busWrite a v s) = if b = a then v else busRead b s)) ∧
     (∀ c, 0x8000 ≤ a.toNat → s.cart = some c → c.mapper = .fixed → busWrite a v s = s) ∧
     (∀ c, 0x8000 ≤ a.toNat → s.cart = some c → c.mapper = .switchableChr →
       busWrite a v s = { s with cart := some { c with chrBank := v.toNat % max c.chrBanks 1 } }))

/-- The PPU's own reads (R100, R101): the pattern tables through the CHR bank, the nametables through the mirroring
(R103), the palette through its fold (R104). Read after write in the PPU's address space (R100, R102, R103, R104): a
write is seen at every address that names the same cell and nowhere else, is lost in CHR ROM and without a cartridge,
and changes nothing outside the PPU's memories and CHR. -/
def Obligations.PpuAddressSpace : Prop :=
  (∀ (cart : Option Cartridge) (p : Ppu) (a : BitVec 14),
     (a.toNat ≤ 0x1FFF → cart = none → ppuRead cart p a = 0) ∧
     (∀ c, a.toNat ≤ 0x1FFF → cart = some c →
       ppuRead cart p a = Cells.read c.chr (if c.mapper = .switchableChr then c.chrBank * 8192 + a.toNat else a.toNat)) ∧
     (0x2000 ≤ a.toNat → a.toNat ≤ 0x3EFF → ∃ page,
       ppuRead cart p a = Cells.read p.vram (page * 0x400 + a.toNat % 0x400) ∧
       page = (if mirroringOf cart = .horizontal then a.toNat / 0x800 % 2 else a.toNat / 0x400 % 2)) ∧
     (0x3F00 ≤ a.toNat →
       ppuRead cart p a = Cells.read p.palette (if a.toNat % 4 = 0 then a.toNat % 16 else a.toNat % 32))) ∧
  (∀ (s : State) (a b : BitVec 14) (v : Byte), s.inv = true →
     let t := ppuWrite a v s
     (ppuWritable s.cart a → samePpuCell (mirroringOf s.cart) a b → ppuRead t.cart t.ppu b = v) ∧
     (¬ (ppuWritable s.cart a ∧ samePpuCell (mirroringOf s.cart) a b) →
       ppuRead t.cart t.ppu b = ppuRead s.cart s.ppu b) ∧
     t = { s with cart := t.cart, ppu := { s.ppu with vram := t.ppu.vram, palette := t.ppu.palette } } ∧
     t.cart.map Cartridge.constants = s.cart.map Cartridge.constants)

/-! ## Devices -/

/-- OAM DMA (R85): 256 bus reads in order, side effects included, each into the OAM byte of its own index; then the
stall (R86) and nothing else. A page without a device is copied exactly. -/
def Obligations.OamDmaCopiesAPage : Prop :=
  ∀ (page : Byte) (s : State),
    (∃ u : Nat → State, u 0 = s ∧
      (∀ i, i < 256 →
        u (i + 1) =
          (afterRead (word page (BitVec.ofNat 8 i)) (u i)).setPpu
            { (afterRead (word page (BitVec.ofNat 8 i)) (u i)).ppu with
              oam := Cells.write (u i).ppu.oam i (busRead (word page (BitVec.ofNat 8 i)) (u i)) }) ∧
      busWrite 0x4014 page s = (u 256).setCountdown (s.cpu.countdown + 513)) ∧
    (busWrite 0x4014 page s).cpu = { s.cpu with countdown := s.cpu.countdown + 513 } ∧
    (busWrite 0x4014 page s).ppu.oamAddr = s.ppu.oamAddr ∧
    (busWrite 0x4014 page s).ram = s.ram ∧ (busWrite 0x4014 page s).cart = s.cart ∧
    (s.inv = true → (page.toNat < 0x20 ∨ 0x40 < page.toNat) →
      (busWrite 0x4014 page s).ctl = s.ctl ∧
      (busWrite 0x4014 page s).ppu = { s.ppu with oam := (busWrite 0x4014 page s).ppu.oam } ∧
      ∀ i, i < 256 → Cells.read (busWrite 0x4014 page s).ppu.oam i = busRead (word page (BitVec.ofNat 8 i)) s)

/-- The controller ports (R92, R93): the strobe reloads both shifters; while it is high every read gives button A and
shifts nothing; while it is low a read of a port gives the top bit of that port's shifter and shifts it up by one with
a 1 filled in, and changes nothing else; so after the strobe falls the reads of a port give A, B, Select, Start, Up,
Down, Left, Right and then 1s. -/
def Obligations.ControllerProtocol : Prop :=
  ∀ (s : State) (v : Byte) (n : Nat),
    (busWrite 0x4016 v s = s.setCtl
      { s.ctl with
        strobe := v.getLsbD 0
        shift0 := if s.ctl.strobe || v.getLsbD 0 then s.ctl.buttons0 else s.ctl.shift0
        shift1 := if s.ctl.strobe || v.getLsbD 0 then s.ctl.buttons1 else s.ctl.shift1 }) ∧
    (s.ctl.strobe = true →
      busRead 0x4016 s = (BitVec.ofBool (s.ctl.buttons0.getLsbD 7)).setWidth 8 ∧ afterRead 0x4016 s = s ∧
      busRead 0x4017 s = (BitVec.ofBool (s.ctl.buttons1.getLsbD 7)).setWidth 8 ∧ afterRead 0x4017 s = s) ∧
    (s.ctl.strobe = false →
      busRead 0x4016 s = (BitVec.ofBool (s.ctl.shift0.getLsbD 7)).setWidth 8 ∧
      (∃ r, movedUp true s.ctl.shift0 r ∧ afterRead 0x4016 s = s.setCtl { s.ctl with shift0 := r }) ∧
      busRead 0x4017 s = (BitVec.ofBool (s.ctl.shift1.getLsbD 7)).setWidth 8 ∧
      ∃ r, movedUp true s.ctl.shift1 r ∧ afterRead 0x4017 s = s.setCtl { s.ctl with shift1 := r }) ∧
    (let u := busWrite 0x4016 0 (busWrite 0x4016 1 s)
     busRead 0x4016 ((afterRead 0x4016)^[n] u) =
       (BitVec.ofBool (if n < 8 then s.ctl.buttons0.getLsbD (7 - n) else true)).setWidth 8 ∧
     busRead 0x4017 ((afterRead 0x4017)^[n] u) =
       (BitVec.ofBool (if n < 8 then s.ctl.buttons1.getLsbD (7 - n) else true)).setWidth 8)

/-- PPUSTATUS (R404) and the registers that cannot be read or written (R413), at every mirror. -/
def Obligations.StatusReadAndWriteOnlyRegisters : Prop :=
  ∀ (a : Word) (v : Byte) (s : State),
    (isRegister 2 a →
      (busRead a s).getLsbD 7 = s.ppu.vblank ∧ (busRead a s).getLsbD 6 = s.ppu.sprite0Hit ∧
      (busRead a s).getLsbD 5 = s.ppu.spriteOverflow ∧
      (∀ k, k < 5 → (busRead a s).getLsbD k = s.ppu.dataBuffer.getLsbD k) ∧
      afterRead a s = s.setPpu { s.ppu with vblank := false, w := false } ∧ busWrite a v s = s) ∧
    (∀ r, r ∈ [0, 1, 3, 5, 6] → isRegister r a → busRead a s = 0 ∧ afterRead a s = s)

/-- PPUCTRL, PPUMASK, OAMADDR and OAMDATA (R402, R403, R405, R406, R407). -/
def Obligations.ControlAndOamRegisters : Prop :=
  ∀ (a : Word) (v : Byte) (s : State), s.inv = true →
    (isRegister 0 a → ∃ t, busWrite a v s = s.setPpu { s.ppu with ctrl := v, t := t } ∧
      nametableX t = v.getLsbD 0 ∧ nametableY t = v.getLsbD 1 ∧
      coarseX t = coarseX s.ppu.t ∧ coarseY t = coarseY s.ppu.t ∧ fineY t = fineY s.ppu.t) ∧
    (isRegister 1 a → busWrite a v s = s.setPpu { s.ppu with mask := v }) ∧
    (isRegister 3 a → busWrite a v s = s.setPpu { s.ppu with oamAddr := v }) ∧
    (isRegister 4 a →
      busRead a s = Cells.read s.ppu.oam s.ppu.oamAddr.toNat ∧ afterRead a s = s ∧
      ∃ oam, busWrite a v s = s.setPpu { s.ppu with oam := oam, oamAddr := s.ppu.oamAddr + 1 } ∧
        ∀ k, Cells.read oam k = if k = s.ppu.oamAddr.toNat then v else Cells.read s.ppu.oam k)

/-- PPUSCROLL and PPUADDR (R408, R409): the two writes of each, told apart by the shared toggle w. -/
def Obligations.ScrollAndAddressWrites : Prop :=
  ∀ (a : Word) (v : Byte) (s : State),
    (isRegister 5 a → s.ppu.w = false →
      ∃ t, busWrite a v s = s.setPpu { s.ppu with t := t, x := v.extractLsb' 0 3, w := true } ∧
        coarseX t = v.extractLsb' 3 5 ∧ coarseY t = coarseY s.ppu.t ∧ nametableX t = nametableX s.ppu.t ∧
        nametableY t = nametableY s.ppu.t ∧ fineY t = fineY s.ppu.t) ∧
    (isRegister 5 a → s.ppu.w = true →
      ∃ t, busWrite a v s = s.setPpu { s.ppu with t := t, w := false } ∧
        coarseY t = v.extractLsb' 3 5 ∧ fineY t = v.extractLsb' 0 3 ∧ coarseX t = coarseX s.ppu.t ∧
        nametableX t = nametableX s.ppu.t ∧ nametableY t = nametableY s.ppu.t) ∧
    (isRegister 6 a → s.ppu.w = false →
      ∃ t, busWrite a v s = s.setPpu { s.ppu with t := t, w := true } ∧
        t.toNat = v.toNat % 64 * 256 + s.ppu.t.toNat % 256) ∧
    (isRegister 6 a → s.ppu.w = true →
      ∃ t, busWrite a v s = s.setPpu { s.ppu with t := t, v := t, w := false } ∧
        t.toNat = s.ppu.t.toNat / 256 * 256 + v.toNat)

/-- PPUDATA (R410, R411, R412): the buffered read, the immediate palette read, the write at v, and the increment of v
by 1 or 32, which carries through the fields and wraps at 15 bits. -/
def Obligations.DataRegisterAccess : Prop :=
  ∀ (a : Word) (v : Byte) (s : State), isRegister 7 a →
    ∃ (at' : BitVec 14) (next : BitVec 15),
      at'.toNat = s.ppu.v.toNat % 0x4000 ∧
      next.toNat = (s.ppu.v.toNat + (if s.ppu.ctrl.getLsbD 2 then 32 else 1)) % 0x8000 ∧
      (at'.toNat < 0x3F00 → busRead a s = s.ppu.dataBuffer) ∧
      (0x3F00 ≤ at'.toNat → busRead a s = ppuRead s.cart s.ppu at') ∧
      afterRead a s = s.setPpu { s.ppu with dataBuffer := ppuRead s.cart s.ppu at', v := next } ∧
      busWrite a v s = (ppuWrite at' v s).setPpu { (ppuWrite at' v s).ppu with v := next }

/-! ## The PPU's dot -/

/-- The scroll steps on the fields of v (R459, R461, R462, R463). -/
def Obligations.ScrollStepsOnTheFields : Prop :=
  ∀ v t : BitVec 15,
    (coarseX (incXOf v) = (if coarseX v = 31 then 0 else coarseX v + 1) ∧
      nametableX (incXOf v) = (if coarseX v = 31 then !nametableX v else nametableX v) ∧
      coarseY (incXOf v) = coarseY v ∧ nametableY (incXOf v) = nametableY v ∧ fineY (incXOf v) = fineY v) ∧
    (fineY (incYOf v) = (if fineY v = 7 then 0 else fineY v + 1) ∧
      coarseY (incYOf v) =
        (if fineY v ≠ 7 then coarseY v
         else if coarseY v = 29 ∨ coarseY v = 31 then 0 else coarseY v + 1) ∧
      nametableY (incYOf v) = (if fineY v = 7 ∧ coarseY v = 29 then !nametableY v else nametableY v) ∧
      coarseX (incYOf v) = coarseX v ∧ nametableX (incYOf v) = nametableX v) ∧
    (coarseX (copyXOf v t) = coarseX t ∧ nametableX (copyXOf v t) = nametableX t ∧
      coarseY (copyXOf v t) = coarseY v ∧ nametableY (copyXOf v t) = nametableY v ∧ fineY (copyXOf v t) = fineY v) ∧
    (coarseY (copyYOf v t) = coarseY t ∧ fineY (copyYOf v t) = fineY t ∧ nametableY (copyYOf v t) = nametableY t ∧
      coarseX (copyYOf v t) = coarseX v ∧ nametableX (copyYOf v t) = nametableX v)

/-- How one dot moves v (R450, R453): only on a render line with rendering enabled; the coarse-X step ends each tile,
the Y step follows it at dot 256, the X copy is at dot 257 and the Y copy at dots 280 to 304 of the pre-render line.
Whatever the dot, the registers, t, the toggle, fine X, the data buffer and the memories are kept (R405). -/
def Obligations.DotMovesVAndLeavesTheRegisters : Prop :=
  ∀ (cart : Option Cartridge) (p : Ppu),
    let d := p.dot.val
    let q := ppuDot cart p
    (¬ (p.onRenderLine ∧ p.rendering = true) → q.v = p.v) ∧
    (p.onRenderLine → p.rendering = true →
      q.v =
        if d = 256 then incYOf (incXOf p.v)
        else if (1 ≤ d ∧ d ≤ 255 ∨ 321 ≤ d ∧ d ≤ 336) ∧ d % 8 = 0 then incXOf p.v
        else if d = 257 then copyXOf p.v p.t
        else if p.scanline.val = 261 ∧ 280 ≤ d ∧ d ≤ 304 then copyYOf p.v p.t
        else p.v) ∧
    q.ctrl = p.ctrl ∧ q.mask = p.mask ∧ q.oamAddr = p.oamAddr ∧ q.t = p.t ∧ q.x = p.x ∧ q.w = p.w ∧
    q.dataBuffer = p.dataBuffer ∧ q.vram = p.vram ∧ q.palette = p.palette ∧ q.oam = p.oam

/-- VBlank and the NMI request (R470), the pre-render clear (R471), and that the status flags and the request change
at no other dot, but that a hit or an overflow may be set. -/
def Obligations.VBlankAndPreRenderClear : Prop :=
  ∀ (cart : Option Cartridge) (p : Ppu),
    let q := ppuDot cart p
    (p.scanline.val = 241 → p.dot.val = 1 →
      q = { p with vblank := true, nmiOut := p.nmiOut || p.ctrl.getLsbD 7, dot := 2 }) ∧
    (p.scanline.val = 261 → p.dot.val = 1 →
      q.vblank = false ∧ q.sprite0Hit = false ∧ q.spriteOverflow = false ∧ q.nmiOut = p.nmiOut ∧
      (∀ i : Fin 8, q.sprLo[i] = 0 ∧ q.sprHi[i] = 0) ∧
      q.spriteCount = p.spriteCount ∧ q.oam2 = p.oam2 ∧ q.sprite0InLine = p.sprite0InLine) ∧
    (¬ (p.dot.val = 1 ∧ (p.scanline.val = 241 ∨ p.scanline.val = 261)) →
      q.vblank = p.vblank ∧ q.nmiOut = p.nmiOut ∧ (p.sprite0Hit = true → q.sprite0Hit = true) ∧
      (p.spriteOverflow = true → q.spriteOverflow = true))

/-- The background pipeline (R453 to R458, R460): the stage of each dot of a tile, the shift while background
rendering is on, and nothing on the dots without a fetch. -/
def Obligations.BackgroundPipeline : Prop :=
  ∀ (cart : Option Cartridge) (p : Ppu),
    let q := ppuDot cart p
    let sh := fun w : BitVec 16 => if p.mask.getLsbD 3 then w <<< 1 else w
    let phase := (p.dot.val - 1) % 8
    let row := (if p.ctrl.getLsbD 4 then 0x1000 else 0) + p.bgNextId.toNat * 16 + (fineY p.v).toNat
    (p.onRenderLine → p.onFetchDot →
      (q.bgNextId = if phase = 0 then ppuRead cart p (BitVec.ofNat 14 (0x2000 + p.v.toNat % 0x1000)) else p.bgNextId) ∧
      (phase = 0 →
        q.bgPatLo = (sh p.bgPatLo &&& 0xFF00) ||| zext16 p.bgNextLo ∧
        q.bgPatHi = (sh p.bgPatHi &&& 0xFF00) ||| zext16 p.bgNextHi ∧
        q.bgAttrLo = (sh p.bgAttrLo &&& 0xFF00) ||| (if p.bgNextAttr.getLsbD 0 then 0x00FF else 0) ∧
        q.bgAttrHi = (sh p.bgAttrHi &&& 0xFF00) ||| (if p.bgNextAttr.getLsbD 1 then 0x00FF else 0)) ∧
      (phase ≠ 0 →
        q.bgPatLo = sh p.bgPatLo ∧ q.bgPatHi = sh p.bgPatHi ∧ q.bgAttrLo = sh p.bgAttrLo ∧ q.bgAttrHi = sh p.bgAttrHi) ∧
      (∃ at' : BitVec 14,
        at'.toNat = 0x23C0 + (p.v.toNat / 0x400 % 4) * 0x400 + (coarseY p.v).toNat / 4 * 8 + (coarseX p.v).toNat / 4 ∧
        q.bgNextAttr =
          if phase = 2 then
            BitVec.ofNat 2 ((ppuRead cart p at').toNat /
              2 ^ (4 * ((coarseY p.v).toNat / 2 % 2) + 2 * ((coarseX p.v).toNat / 2 % 2)))
          else p.bgNextAttr) ∧
      (q.bgNextLo = if phase = 4 then ppuRead cart p (BitVec.ofNat 14 row) else p.bgNextLo) ∧
      (q.bgNextHi = if phase = 6 then ppuRead cart p (BitVec.ofNat 14 (row + 8)) else p.bgNextHi)) ∧
    (¬ (p.onRenderLine ∧ p.onFetchDot) →
      q.bgNextId = p.bgNextId ∧ q.bgNextAttr = p.bgNextAttr ∧ q.bgNextLo = p.bgNextLo ∧ q.bgNextHi = p.bgNextHi ∧
      q.bgPatLo = p.bgPatLo ∧ q.bgPatHi = p.bgPatHi ∧ q.bgAttrLo = p.bgAttrLo ∧ q.bgAttrHi = p.bgAttrHi)

/-- Sprite evaluation (R466, R467): at dot 257 of a render line the first eight entries that cover the next scanline
go to the slots in OAM order, every other slot is left 0xFF, and overflow is set when eight were found; no other dot
changes the slots or newly sets overflow. -/
def Obligations.SpriteEvaluation : Prop :=
  ∀ (cart : Option Cartridge) (p : Ppu),
    let q := ppuDot cart p
    let found := coveringEntries p
    (p.onRenderLine → p.dot.val = 257 →
      q.spriteCount.val = min 8 found.length ∧
      (∀ k : Fin 8, q.oam2[k] = match found[k.val]? with
        | some e => oamEntry p.oam e
        | none => OamEntry.unused) ∧
      q.sprite0InLine = coversNextLine p 0 ∧
      q.spriteOverflow = (p.spriteOverflow || decide (8 ≤ found.length))) ∧
    (¬ (p.onRenderLine ∧ p.dot.val = 257) →
      q.spriteCount = p.spriteCount ∧ q.oam2 = p.oam2 ∧ q.sprite0InLine = p.sprite0InLine ∧
      (q.spriteOverflow = true → p.spriteOverflow = true))

/-- The sprite fetch (R472) at dot 320 of a render line, for the slots whose sprite covers the next scanline: the row
after the vertical flip, the tile address in 8×8 and 8×16, the horizontal flip; the slots not in use are cleared. No
other dot but the pre-render clear of (261, 1) changes a pattern register. -/
def Obligations.SpriteFetch : Prop :=
  (∀ (cart : Option Cartridge) (p : Ppu) (k : Fin 8), p.onRenderLine → p.dot.val = 320 →
    let q := ppuDot cart p
    let e := p.oam2[k]
    let n := (p.scanline.val + 1) % 262
    let h := if p.ctrl.getLsbD 5 then 16 else 8
    let row := if e.attr.getLsbD 7 then h - 1 - (n - e.y.toNat) else n - e.y.toNat
    let base :=
      if p.ctrl.getLsbD 5 then
        e.tile.toNat % 2 * 0x1000 + (e.tile.toNat / 2 * 2 + row / 8) * 16 + row % 8
      else (if p.ctrl.getLsbD 3 then 0x1000 else 0) + e.tile.toNat * 16 + row
    (k.val < p.spriteCount.val → e.y.toNat ≤ n → n < e.y.toNat + h →
      ∀ b, b < 8 →
        q.sprLo[k].getLsbD b =
          (ppuRead cart p (BitVec.ofNat 14 base)).getLsbD (if e.attr.getLsbD 6 then 7 - b else b) ∧
        q.sprHi[k].getLsbD b =
          (ppuRead cart p (BitVec.ofNat 14 (base + 8))).getLsbD (if e.attr.getLsbD 6 then 7 - b else b)) ∧
    (p.spriteCount.val ≤ k.val → q.sprLo[k] = 0 ∧ q.sprHi[k] = 0)) ∧
  (∀ (cart : Option Cartridge) (p : Ppu),
    ¬ (p.onRenderLine ∧ p.dot.val = 320) → ¬ (p.scanline.val = 261 ∧ p.dot.val = 1) →
      (ppuDot cart p).sprLo = p.sprLo ∧ (ppuDot cart p).sprHi = p.sprHi)

/-- The sprite pixel (R465): the first slot in OAM order that covers the column with a non-zero pixel, and none with
sprite rendering off. -/
def Obligations.SpritePixelIsTheFirst : Prop :=
  ∀ (p : Ppu) (d : Nat),
    let shows := fun k : Fin 8 =>
      k.val < p.spriteCount.val ∧ p.oam2[k].x.toNat ≤ d - 1 ∧ d - 1 ≤ p.oam2[k].x.toNat + 7 ∧
        (p.sprHi[k].getLsbD (7 - (d - 1 - p.oam2[k].x.toNat)) = true ∨
          p.sprLo[k].getLsbD (7 - (d - 1 - p.oam2[k].x.toNat)) = true)
    (p.mask.getLsbD 4 = false → spritePixel p d = none) ∧
    (p.mask.getLsbD 4 = true → (∀ k, ¬ shows k) → spritePixel p d = none) ∧
    (p.mask.getLsbD 4 = true → ∀ k, shows k → (∀ j, j < k → ¬ shows j) →
      ∃ sp, spritePixel p d = some sp ∧
        sp.value = pair (p.sprHi[k].getLsbD (7 - (d - 1 - p.oam2[k].x.toNat)))
          (p.sprLo[k].getLsbD (7 - (d - 1 - p.oam2[k].x.toNat))) ∧
        sp.palette = p.oam2[k].attr.extractLsb' 0 2 ∧ sp.behind = p.oam2[k].attr.getLsbD 5 ∧
        sp.spriteZero = (decide (k.val = 0) && p.sprite0InLine))

/-- Pixel output (R464, R468, R469): one pixel at dots 1 to 256 of lines 0 to 239, composed after that dot's background
step and with the sprites as they were, and none at any other dot; which of background and sprite wins, the colour index
written at the pixel's place and nowhere else, and the sprite-zero hit. -/
def Obligations.PixelOutput : Prop :=
  (∀ (cart : Option Cartridge) (p : Ppu),
    let q := ppuDot cart p
    let u := { p with bgPatLo := q.bgPatLo, bgPatHi := q.bgPatHi, bgAttrLo := q.bgAttrLo, bgAttrHi := q.bgAttrHi }
    (p.scanline.val ≤ 239 → 1 ≤ p.dot.val → p.dot.val ≤ 256 →
      q.frameBuffer = (composePixel cart p.scanline.val p.dot.val u).frameBuffer ∧
      q.sprite0Hit = (composePixel cart p.scanline.val p.dot.val u).sprite0Hit) ∧
    (¬ (p.scanline.val ≤ 239 ∧ 1 ≤ p.dot.val ∧ p.dot.val ≤ 256) → q.frameBuffer = p.frameBuffer ∧
      (q.sprite0Hit = true → p.sprite0Hit = true))) ∧
  (∀ (cart : Option Cartridge) (p : Ppu) (s d : Nat), p.inv = true →
    let q := composePixel cart s d p
    let on := p.mask.getLsbD 3
    let bp := if on then pair (p.bgPatHi.getLsbD (15 - p.x.toNat)) (p.bgPatLo.getLsbD (15 - p.x.toNat)) else 0
    let bpal := if on then pair (p.bgAttrHi.getLsbD (15 - p.x.toNat)) (p.bgAttrLo.getLsbD (15 - p.x.toNat)) else 0
    let out := fun c : Nat =>
      Cells.read q.frameBuffer (s * 256 + d - 1) = (ppuRead cart p (BitVec.ofNat 14 (0x3F00 + c))).setWidth 6
    (bp = 0 → spritePixel p d = none → out 0) ∧
    (bp ≠ 0 → spritePixel p d = none → out (bpal.toNat * 4 + bp.toNat)) ∧
    (∀ sp, spritePixel p d = some sp → bp = 0 ∨ sp.behind = false →
      out ((sp.palette.toNat + 4) * 4 + sp.value.toNat)) ∧
    (∀ sp, spritePixel p d = some sp → bp ≠ 0 → sp.behind = true → out (bpal.toNat * 4 + bp.toNat)) ∧
    (∀ k, k ≠ s * 256 + d - 1 → Cells.read q.frameBuffer k = Cells.read p.frameBuffer k) ∧
    (q.sprite0Hit = true ↔ p.sprite0Hit = true ∨
      ∃ sp, spritePixel p d = some sp ∧ sp.spriteZero = true ∧ bp ≠ 0 ∧ p.mask.getLsbD 3 = true ∧
        p.mask.getLsbD 4 = true ∧ (8 < d ∨ (p.mask.getLsbD 1 = true ∧ p.mask.getLsbD 2 = true))))

/-! ## Time -/

/-- Every step that gives a next state advances the PPU by one dot (R451) and the clock counter by one, leaves no NMI
request behind, and sets the NMI latch only at a VBlank start. -/
def Obligations.EveryStepIsOneDot : Prop :=
  ∀ s t : State, step s = .next t →
    t.ppu.position = s.ppu.position + 1 ∧ t.clockCounter = s.clockCounter + 1 ∧ t.ppu.nmiOut = false ∧
    (t.cpu.nmiPending = true → s.cpu.nmiPending = true ∨ s.ppu.nmiOut = true ∨
      (s.ppu.scanline.val = 241 ∧ s.ppu.dot.val = 1))

/-- Running the bus for 262 × 341 ticks advances the frame counter by one and returns to the same scanline and dot
(R451), from every state, whatever program runs. -/
def Obligations.AFrameIs89342Ticks : Prop :=
  ∀ s : State, s.params.illegalPolicy = .nop →
    ∃ t, Host.Core.run core 89342 s = .next t ∧ t.ppu.frame = s.ppu.frame + 1 ∧ t.ppu.scanline = s.ppu.scanline ∧
      t.ppu.dot = s.ppu.dot ∧ t.clockCounter = s.clockCounter + 89342

/-- After the boundary cycle of an instruction has left the countdown at n, the next boundary is exactly 3 n + 2 ticks
later (the spec's own inference from R578 and R576), and no register, memory or device of the CPU side changes before
it. -/
def Obligations.NextBoundaryAfterTheCountdown : Prop :=
  ∀ (n : Nat) (s : State), s.clockCounter % 3 = 1 → s.cpu.countdown = n →
    (∀ k, k < 3 * n + 2 → ∃ u, Host.Core.run core k s = .next u ∧ ¬ atBoundary u) ∧
    ∃ t, Host.Core.run core (3 * n + 2) s = .next t ∧ atBoundary t ∧
      t.cpu = { s.cpu with countdown := 0, nmiPending := t.cpu.nmiPending } ∧
      t.ram = s.ram ∧ t.bringupRam = s.bringupRam ∧ t.cart = s.cart ∧ t.ctl = s.ctl

/-! ## Reset and construction -/

/-- System reset (R570): every value it sets, and what it keeps. -/
def Obligations.SystemResetValues : Prop :=
  ∀ s : State,
    let t := systemReset s
    t.cpu = { a := 0, x := 0, y := 0, sp := 0xFD, pc := word (busRead 0xFFFD s) (busRead 0xFFFC s), p := 0x20
              countdown := 7, nmiPending := false } ∧
    t.clockCounter = 0 ∧ t.ram = s.ram ∧ t.bringupRam = s.bringupRam ∧
    t.cart = s.cart.map (fun c => { c with chrBank := 0 }) ∧
    t.ctl.strobe = false ∧ t.ctl.shift0 = 0 ∧ t.ctl.shift1 = 0 ∧ t.params = s.params ∧
    t.ppu.ctrl = 0 ∧ t.ppu.mask = 0 ∧ t.ppu.vblank = false ∧ t.ppu.sprite0Hit = false ∧ t.ppu.spriteOverflow = false ∧
    t.ppu.oamAddr = 0 ∧ t.ppu.v = 0 ∧ t.ppu.t = 0 ∧ t.ppu.x = 0 ∧ t.ppu.w = false ∧ t.ppu.dataBuffer = 0 ∧
    t.ppu.nmiOut = false ∧ t.ppu.vram = s.ppu.vram ∧ t.ppu.palette = s.ppu.palette ∧ t.ppu.oam = s.ppu.oam ∧
    (∀ k : Fin 8, t.ppu.oam2[k] = ⟨0xFF, 0xFF, 0xFF, 0xFF⟩ ∧ t.ppu.sprLo[k] = 0 ∧ t.ppu.sprHi[k] = 0) ∧
    t.ppu.scanline.val = 0 ∧ t.ppu.dot.val = 0 ∧ t.ppu.frame = 0 ∧
    t.ppu.bgNextId = 0 ∧ t.ppu.bgNextAttr = 0 ∧ t.ppu.bgNextLo = 0 ∧ t.ppu.bgNextHi = 0 ∧
    t.ppu.bgPatLo = 0 ∧ t.ppu.bgPatHi = 0 ∧ t.ppu.bgAttrLo = 0 ∧ t.ppu.bgAttrHi = 0 ∧
    t.ppu.spriteCount.val = 0 ∧ t.ppu.sprite0InLine = false ∧ t.ppu.frameBuffer = s.ppu.frameBuffer

/-- The boot timeline (R572, R587): the first opcode fetch is at tick 21 after a reset, at dot 21 of scanline 0, with
PC at the reset vector and every CPU register as the reset left it. The spec marks R587 as derived. -/
def Obligations.BootTimeline : Prop :=
  ∀ s : State,
    (∀ k, k < 21 → ∃ u, Host.Core.run core k (systemReset s) = .next u ∧ ¬ atBoundary u) ∧
    ∃ t, Host.Core.run core 21 (systemReset s) = .next t ∧ atBoundary t ∧ t.clockCounter = 21 ∧
      t.ppu.scanline.val = 0 ∧ t.ppu.dot.val = 21 ∧ t.cpu = { (systemReset s).cpu with countdown := 0 } ∧
      t.ppu.ctrl = 0 ∧ t.ppu.mask = 0 ∧ t.ppu.vblank = false

/-- Construction refuses exactly the cartridges outside the accepted configurations of R95, and every machine it gives
is in a sound state, whatever the memories hold at power-on. That this holds for initial contents of any length is the
model's own choice: a buffer is cut to its memory's size and a byte it does not give is 0x00 (log 10, DESIGN CHOICE).
-/
def Obligations.ConstructionAcceptsOrRefuses : Prop :=
  ∀ (params : Params) (image : CartridgeImage) (init : InitialContents),
    (accepted image → ∃ t, powerOn params (some image) init = .next t ∧ t.inv = true ∧ t.params = params) ∧
    (¬ accepted image → powerOn params (some image) init = .refused .unsupportedCartridge) ∧
    ∃ t, powerOn params none init = .next t ∧ t.inv = true ∧ t.params = params

/-! ## The whole machine -/

/-- The invariant holds right after reset: for the choice of the OPEN values that the model names (logs 2 and 3). -/
def Obligations.ResetIsSound : Prop := State.reset.inv = true

/-- The invariant is kept by every step from every state that has it: memories stay canonical and of their size, the
cartridge stays an accepted one with its bank in range, and P's Unused bit reads 1 and its Break bit 0 (R34, R35). -/
def Obligations.StepKeepsTheInvariant : Prop :=
  ∀ s t : State, s.inv = true → step s = .next t → t.inv = true

/-- The countdown stays within the most it can hold between ticks: 7 base cycles and an OAM DMA stall, less the cycle
that sets it; the number is the model's inference from R39. -/
def Obligations.CountdownStaysBounded : Prop :=
  ∀ s t : State, s.cpu.countdown ≤ maxCountdown → step s = .next t → t.cpu.countdown ≤ maxCountdown

/-- What no step changes: the parameters, the host's buttons, and of the cartridge all but the bank register and CHR RAM
(R7, R17, R58, R59). -/
def Obligations.StepKeepsTheConstants : Prop :=
  ∀ s t : State, step s = .next t →
    t.params = s.params ∧ t.ctl.buttons0 = s.ctl.buttons0 ∧ t.ctl.buttons1 = s.ctl.buttons1 ∧
      t.cart.map Cartridge.constants = s.cart.map Cartridge.constants

/-- How a step can end (R13, R520): always in a next state, but for an unassigned opcode under ILLEGAL_OPCODE_POLICY =
refuse; never in a fault. -/
def Obligations.StepNeverFaults : Prop :=
  ∀ s : State,
    (∃ t, step s = .next t) ∨
    (s.params.illegalPolicy = .refuse ∧
      ∃ op : Byte, op.toNat ∈ unassignedOpcodes ∧ step s = .refused (.illegalOpcode op))

/-- Which instructions may write which register and flag (R30, R31, and R38, which the spec marks as derived). -/
def Obligations.OnlyTheseWriteRegistersAndFlags : Prop :=
  ∀ (i : Instr) (s t : State), s.inv = true → exec i s = .next t →
    (t.cpu.a ≠ s.cpu.a → writesA i = true) ∧ (t.cpu.x ≠ s.cpu.x → writesX i = true) ∧
    (t.cpu.y ≠ s.cpu.y → writesY i = true) ∧ (t.cpu.sp ≠ s.cpu.sp → writesSp i = true) ∧
    flagsKept (flagsWritten i) s t ∧ t.cpu.nmiPending = s.cpu.nmiPending
end

