-- ==== Sys2Proof/Laws/Bits.lean ====
section
/-! SUPPORT. The bit-field helpers, bit by bit. -/

namespace Sys2Proof.Bits

theorem getLsbD_word (hi lo : Byte) (i : Nat) :
    (word hi lo).getLsbD i = if i < 8 then lo.getLsbD i else hi.getLsbD (i - 8) :=
  BitVec.getLsbD_append (x := hi) (y := lo) (i := i)

@[simp] theorem loByte_word (hi lo : Byte) : loByte (word hi lo) = lo := by
  apply BitVec.eq_of_getLsbD_eq
  intro i h
  simp [loByte, getLsbD_word, h]

@[simp] theorem hiByte_word (hi lo : Byte) : hiByte (word hi lo) = hi := by
  apply BitVec.eq_of_getLsbD_eq
  intro i h
  simp [hiByte, getLsbD_word, h]

@[simp] theorem word_bytes (w : Word) : word (hiByte w) (loByte w) = w := by
  apply BitVec.eq_of_getLsbD_eq
  intro i h
  simp only [hiByte, loByte, getLsbD_word, BitVec.getLsbD_extractLsb']
  split
  · simp [*]
  · have h1 : i - 8 < 8 := by omega
    have h2 : 8 + (i - 8) = i := by omega
    simp [h1, h2]

theorem word_toNat (hi lo : Byte) : (word hi lo).toNat = hi.toNat * 256 + lo.toNat := by
  have e : (word hi lo).toNat = hi.toNat <<< 8 ||| lo.toNat := BitVec.toNat_append hi lo
  have h := Nat.two_pow_add_eq_or_of_lt (b := lo.toNat) (i := 8) lo.isLt hi.toNat
  rw [e, Nat.shiftLeft_eq, Nat.mul_comm, ← h]

@[simp] theorem zext16_toNat (b : Byte) : (zext16 b).toNat = b.toNat := by
  have := b.isLt
  simp only [zext16, BitVec.toNat_setWidth]
  omega

/-- A field write, bit by bit: the field's bits come from the new value, the others are kept. -/
theorem getLsbD_putField {n w : Nat} (v : BitVec n) (lo : Nat) (f : BitVec w) (i : Nat) (hw : lo + w ≤ n) :
    (putField v lo f).getLsbD i = if lo ≤ i ∧ i < lo + w then f.getLsbD (i - lo) else v.getLsbD i := by
  simp only [putField, BitVec.getLsbD_or, BitVec.getLsbD_and, BitVec.getLsbD_not, BitVec.getLsbD_shiftLeft,
    BitVec.getLsbD_setWidth, BitVec.getLsbD_allOnes]
  by_cases hn : i < n
  · by_cases h1 : lo ≤ i
    · by_cases h2 : i < lo + w
      · have h3 : i - lo < w := by omega
        have h4 : i - lo < n := by omega
        have h5 : ¬ i < lo := by omega
        simp [hn, h1, h2, h3, h4, h5]
      · have h3 : ¬ i - lo < w := by omega
        have h5 : ¬ i < lo := by omega
        have h6 : f.getLsbD (i - lo) = false := BitVec.getLsbD_of_ge _ _ (by omega)
        simp [hn, h1, h2, h3, h5, h6]
    · have h5 : i < lo := by omega
      simp [hn, h1, h5]
  · have h0 : v.getLsbD i = false := BitVec.getLsbD_of_ge _ _ (by omega)
    have : ¬ i < lo + w := by omega
    simp [hn, h0, this]

end Sys2Proof.Bits
end

