-- ==== Sys2Proof/Laws/Memory.lean ====
section
/-! SUPPORT. The laws of memories: read after write, other indexes left alone, the canonical form and the size kept, and
equal memories are those that read alike. -/

namespace Sys2Proof.Machine.Cells

variable {w : Nat}

@[simp] theorem read_nil (k : Nat) : read ([] : Cells w) k = 0 := rfl

theorem read_cons (i k : Nat) (u : BitVec w) (m : Cells w) :
    read ((i, u) :: m) k = if k = i then u else read m k := rfl

/-- Below its first index a rising memory lists nothing. -/
theorem read_of_le {m : Cells w} {j k : Nat} (h : risesAbove (some j) m = true) (hk : k ≤ j) : read m k = 0 := by
  induction m generalizing j with
  | nil => rfl
  | cons c m ih =>
    obtain ⟨i, u⟩ := c
    simp only [risesAbove, Bool.and_eq_true, decide_eq_true_eq] at h
    rw [read_cons, if_neg (by omega)]
    exact ih h.2 (by omega)

theorem risesAbove_none {m : Cells w} {j : Nat} (h : risesAbove (some j) m = true) : risesAbove none m = true := by
  cases m with
  | nil => rfl
  | cons c m => simp_all [risesAbove]

theorem risesAbove_mono {m : Cells w} {i j : Nat} (h : risesAbove (some j) m = true) (hij : i ≤ j) :
    risesAbove (some i) m = true := by
  cases m with
  | nil => rfl
  | cons c m =>
    simp only [risesAbove, Bool.and_eq_true, decide_eq_true_eq] at h ⊢
    exact ⟨⟨by omega, h.1.2⟩, h.2⟩

/-- A write keeps the rising order and lists no unlisted value. -/
theorem write_risesAbove {m : Cells w} {j k : Nat} (u : BitVec w) (h : risesAbove (some j) m = true) (hk : j < k) :
    risesAbove (some j) (write m k u) = true := by
  induction m generalizing j with
  | nil => simp only [write]; split <;> simp_all [risesAbove]
  | cons c m ih =>
    obtain ⟨i, e⟩ := c
    simp only [risesAbove, Bool.and_eq_true, decide_eq_true_eq] at h
    simp only [write]
    split
    · split <;> simp_all [risesAbove]
    · split
      · subst_vars
        split
        · exact risesAbove_mono h.2 (by omega)
        · simp_all [risesAbove]
      · have := ih h.2 (by omega)
        simp_all [risesAbove]

/-- A write keeps the canonical form. -/
theorem write_wf {m : Cells w} (k : Nat) (u : BitVec w) (h : Memory.wf m = true) : Memory.wf (write m k u) = true := by
  cases m with
  | nil => simp only [write]; split <;> simp_all [Memory.wf, risesAbove]
  | cons c m =>
    obtain ⟨i, e⟩ := c
    simp only [Memory.wf, risesAbove, Bool.and_eq_true, decide_eq_true_eq] at h ⊢
    simp only [write]
    split
    · split <;> simp_all [risesAbove]
    · split
      · subst_vars
        split
        · exact risesAbove_none h.2
        · simp_all [risesAbove]
      · have := write_risesAbove (k := k) u h.2 (by omega)
        simp_all [risesAbove]

theorem within_cons (i : Nat) (u : BitVec w) (m : Cells w) (n : Nat) :
    within ((i, u) :: m) n = (decide (i < n) && within m n) := rfl

/-- A write at an index below `n` keeps a memory of `n` cells one of `n` cells. -/
theorem write_within {m : Cells w} {n k : Nat} (u : BitVec w) (h : within m n = true) (hk : k < n) :
    within (write m k u) n = true := by
  induction m with
  | nil => simp only [write]; split <;> simp_all [within]
  | cons c m ih =>
    obtain ⟨i, e⟩ := c
    simp only [within_cons, Bool.and_eq_true, decide_eq_true_eq] at h
    have ih := ih h.2
    simp only [write]
    split
    · split <;> simp [within_cons, h, hk]
    · split
      · split <;> simp [within_cons, h, hk]
      · simp [within_cons, h.1, ih]

/-- A write leaves every other index alone, whatever the memory. -/
@[simp] theorem read_write_ne {m : Cells w} {j k : Nat} (u : BitVec w) (h : j ≠ k) : read (write m k u) j = read m j := by
  induction m with
  | nil => simp only [write]; split <;> simp [read, h, unlisted]
  | cons c m ih =>
    obtain ⟨i, e⟩ := c
    simp only [write]
    split
    · split <;> simp [read, h]
    · split
      · subst_vars; split <;> simp [read, h]
      · simp only [read, ih]

/-- Read after write at the same index, in a canonical memory. -/
theorem read_write_self {m : Cells w} (k : Nat) (u : BitVec w) (h : Memory.wf m = true) : read (write m k u) k = u := by
  have go : ∀ (m : Cells w) (lo : Option Nat), risesAbove lo m = true → read (write m k u) k = u := by
    intro m
    induction m with
    | nil => intro lo _; simp only [write]; split <;> simp_all [read, unlisted]
    | cons c m ih =>
      intro lo hm
      obtain ⟨i, e⟩ := c
      simp only [risesAbove, Bool.and_eq_true] at hm
      simp only [write]
      split
      · split
        · rw [read_cons, if_neg (by omega), read_of_le hm.2 (by omega)]; simp_all [unlisted]
        · simp [read]
      · split
        · subst_vars
          split
          · rw [read_of_le hm.2 (by omega)]; simp_all [unlisted]
          · simp [read]
        · rename_i h1 h2
          rw [read_cons, if_neg h2]
          exact ih _ hm.2
  exact go m none h

/-- Two canonical memories that read alike are equal. -/
theorem ext_of_read {m n : Cells w} (hm : Memory.wf m = true) (hn : Memory.wf n = true)
    (h : ∀ k, read m k = read n k) : m = n := by
  have go : ∀ (m n : Cells w) (a b : Option Nat), risesAbove a m = true → risesAbove b n = true →
      (∀ k, read m k = read n k) → m = n := by
    intro m
    induction m with
    | nil =>
      intro n a b _ hn h
      cases n with
      | nil => rfl
      | cons c n =>
        obtain ⟨i, u⟩ := c
        have := h i
        simp_all [risesAbove, read, unlisted]
    | cons c m ih =>
      intro n a b hm hn h
      obtain ⟨i, u⟩ := c
      cases n with
      | nil => have := h i; simp_all [risesAbove, read, unlisted]
      | cons d n =>
        obtain ⟨j, v⟩ := d
        simp only [risesAbove, Bool.and_eq_true, decide_eq_true_eq] at hm hn
        have hij : i = j := by
          rcases Nat.lt_trichotomy i j with hlt | heq | hgt
          · have := h i
            rw [read_cons, if_pos rfl, read_cons, if_neg (by omega), read_of_le hn.2 (by omega)] at this
            exact absurd this hm.1.2
          · exact heq
          · have := h j
            rw [read_cons, if_neg (by omega), read_of_le hm.2 (by omega), read_cons, if_pos rfl] at this
            exact absurd this.symm hn.1.2
        subst hij
        have huv : u = v := by have := h i; simpa [read] using this
        subst huv
        congr 1
        refine ih n _ _ hm.2 hn.2 fun k => ?_
        by_cases hk : k ≤ i
        · rw [read_of_le hm.2 hk, read_of_le hn.2 hk]
        · have := h k
          rwa [read_cons, read_cons, if_neg (by omega), if_neg (by omega)] at this
  exact go m n none none hm hn h

/-- Contents taken from a buffer are canonical. -/
theorem ofList_risesAbove (us : List (BitVec w)) (k j : Nat) (h : j < k) : risesAbove (some j) (ofList k us) = true := by
  induction us generalizing k j with
  | nil => rfl
  | cons u us ih =>
    simp only [ofList]
    split
    · exact ih _ _ (by omega)
    · simp_all [risesAbove]

theorem ofList_wf (us : List (BitVec w)) (k : Nat) : Memory.wf (ofList k us) = true := by
  induction us generalizing k with
  | nil => rfl
  | cons u us ih =>
    simp only [ofList]
    split
    · exact ih _
    · have := ofList_risesAbove us (k + 1) k (by omega)
      simp_all [Memory.wf, risesAbove]

theorem ofList_within (us : List (BitVec w)) (k n : Nat) (h : k + us.length ≤ n) : within (ofList k us) n = true := by
  induction us generalizing k with
  | nil => rfl
  | cons u us ih =>
    simp only [List.length_cons] at h
    have := ih (k + 1) (by omega)
    simp only [ofList]
    split
    · exact this
    · simp only [within, List.all_cons, Bool.and_eq_true, decide_eq_true_eq]
      exact ⟨by omega, this⟩

end Sys2Proof.Machine.Cells
end

