-- ==== Sys2Proof/Laws/State.lean ====
section
/-! SUPPORT. One lemma per field per update of State, each true by rfl: later proofs never unfold a record update. -/

namespace Sys2Proof.Machine.State

variable (s : State)

/-! ### setA -/

@[simp] theorem setA_a (v : Byte) : (s.setA v).cpu.a = v := rfl
@[simp] theorem setA_x (v : Byte) : (s.setA v).cpu.x = s.cpu.x := rfl
@[simp] theorem setA_y (v : Byte) : (s.setA v).cpu.y = s.cpu.y := rfl
@[simp] theorem setA_sp (v : Byte) : (s.setA v).cpu.sp = s.cpu.sp := rfl
@[simp] theorem setA_pc (v : Byte) : (s.setA v).cpu.pc = s.cpu.pc := rfl
@[simp] theorem setA_p (v : Byte) : (s.setA v).cpu.p = s.cpu.p := rfl
@[simp] theorem setA_countdown (v : Byte) : (s.setA v).cpu.countdown = s.cpu.countdown := rfl
@[simp] theorem setA_nmiPending (v : Byte) : (s.setA v).cpu.nmiPending = s.cpu.nmiPending := rfl
@[simp] theorem setA_ram (v : Byte) : (s.setA v).ram = s.ram := rfl
@[simp] theorem setA_clockCounter (v : Byte) : (s.setA v).clockCounter = s.clockCounter := rfl
@[simp] theorem setA_bringupRam (v : Byte) : (s.setA v).bringupRam = s.bringupRam := rfl
@[simp] theorem setA_ppu (v : Byte) : (s.setA v).ppu = s.ppu := rfl
@[simp] theorem setA_cart (v : Byte) : (s.setA v).cart = s.cart := rfl
@[simp] theorem setA_ctl (v : Byte) : (s.setA v).ctl = s.ctl := rfl
@[simp] theorem setA_params (v : Byte) : (s.setA v).params = s.params := rfl

/-! ### setX -/

@[simp] theorem setX_a (v : Byte) : (s.setX v).cpu.a = s.cpu.a := rfl
@[simp] theorem setX_x (v : Byte) : (s.setX v).cpu.x = v := rfl
@[simp] theorem setX_y (v : Byte) : (s.setX v).cpu.y = s.cpu.y := rfl
@[simp] theorem setX_sp (v : Byte) : (s.setX v).cpu.sp = s.cpu.sp := rfl
@[simp] theorem setX_pc (v : Byte) : (s.setX v).cpu.pc = s.cpu.pc := rfl
@[simp] theorem setX_p (v : Byte) : (s.setX v).cpu.p = s.cpu.p := rfl
@[simp] theorem setX_countdown (v : Byte) : (s.setX v).cpu.countdown = s.cpu.countdown := rfl
@[simp] theorem setX_nmiPending (v : Byte) : (s.setX v).cpu.nmiPending = s.cpu.nmiPending := rfl
@[simp] theorem setX_ram (v : Byte) : (s.setX v).ram = s.ram := rfl
@[simp] theorem setX_clockCounter (v : Byte) : (s.setX v).clockCounter = s.clockCounter := rfl
@[simp] theorem setX_bringupRam (v : Byte) : (s.setX v).bringupRam = s.bringupRam := rfl
@[simp] theorem setX_ppu (v : Byte) : (s.setX v).ppu = s.ppu := rfl
@[simp] theorem setX_cart (v : Byte) : (s.setX v).cart = s.cart := rfl
@[simp] theorem setX_ctl (v : Byte) : (s.setX v).ctl = s.ctl := rfl
@[simp] theorem setX_params (v : Byte) : (s.setX v).params = s.params := rfl

/-! ### setY -/

@[simp] theorem setY_a (v : Byte) : (s.setY v).cpu.a = s.cpu.a := rfl
@[simp] theorem setY_x (v : Byte) : (s.setY v).cpu.x = s.cpu.x := rfl
@[simp] theorem setY_y (v : Byte) : (s.setY v).cpu.y = v := rfl
@[simp] theorem setY_sp (v : Byte) : (s.setY v).cpu.sp = s.cpu.sp := rfl
@[simp] theorem setY_pc (v : Byte) : (s.setY v).cpu.pc = s.cpu.pc := rfl
@[simp] theorem setY_p (v : Byte) : (s.setY v).cpu.p = s.cpu.p := rfl
@[simp] theorem setY_countdown (v : Byte) : (s.setY v).cpu.countdown = s.cpu.countdown := rfl
@[simp] theorem setY_nmiPending (v : Byte) : (s.setY v).cpu.nmiPending = s.cpu.nmiPending := rfl
@[simp] theorem setY_ram (v : Byte) : (s.setY v).ram = s.ram := rfl
@[simp] theorem setY_clockCounter (v : Byte) : (s.setY v).clockCounter = s.clockCounter := rfl
@[simp] theorem setY_bringupRam (v : Byte) : (s.setY v).bringupRam = s.bringupRam := rfl
@[simp] theorem setY_ppu (v : Byte) : (s.setY v).ppu = s.ppu := rfl
@[simp] theorem setY_cart (v : Byte) : (s.setY v).cart = s.cart := rfl
@[simp] theorem setY_ctl (v : Byte) : (s.setY v).ctl = s.ctl := rfl
@[simp] theorem setY_params (v : Byte) : (s.setY v).params = s.params := rfl

/-! ### setSp -/

@[simp] theorem setSp_a (v : Byte) : (s.setSp v).cpu.a = s.cpu.a := rfl
@[simp] theorem setSp_x (v : Byte) : (s.setSp v).cpu.x = s.cpu.x := rfl
@[simp] theorem setSp_y (v : Byte) : (s.setSp v).cpu.y = s.cpu.y := rfl
@[simp] theorem setSp_sp (v : Byte) : (s.setSp v).cpu.sp = v := rfl
@[simp] theorem setSp_pc (v : Byte) : (s.setSp v).cpu.pc = s.cpu.pc := rfl
@[simp] theorem setSp_p (v : Byte) : (s.setSp v).cpu.p = s.cpu.p := rfl
@[simp] theorem setSp_countdown (v : Byte) : (s.setSp v).cpu.countdown = s.cpu.countdown := rfl
@[simp] theorem setSp_nmiPending (v : Byte) : (s.setSp v).cpu.nmiPending = s.cpu.nmiPending := rfl
@[simp] theorem setSp_ram (v : Byte) : (s.setSp v).ram = s.ram := rfl
@[simp] theorem setSp_clockCounter (v : Byte) : (s.setSp v).clockCounter = s.clockCounter := rfl
@[simp] theorem setSp_bringupRam (v : Byte) : (s.setSp v).bringupRam = s.bringupRam := rfl
@[simp] theorem setSp_ppu (v : Byte) : (s.setSp v).ppu = s.ppu := rfl
@[simp] theorem setSp_cart (v : Byte) : (s.setSp v).cart = s.cart := rfl
@[simp] theorem setSp_ctl (v : Byte) : (s.setSp v).ctl = s.ctl := rfl
@[simp] theorem setSp_params (v : Byte) : (s.setSp v).params = s.params := rfl

/-! ### setPc -/

@[simp] theorem setPc_a (v : Word) : (s.setPc v).cpu.a = s.cpu.a := rfl
@[simp] theorem setPc_x (v : Word) : (s.setPc v).cpu.x = s.cpu.x := rfl
@[simp] theorem setPc_y (v : Word) : (s.setPc v).cpu.y = s.cpu.y := rfl
@[simp] theorem setPc_sp (v : Word) : (s.setPc v).cpu.sp = s.cpu.sp := rfl
@[simp] theorem setPc_pc (v : Word) : (s.setPc v).cpu.pc = v := rfl
@[simp] theorem setPc_p (v : Word) : (s.setPc v).cpu.p = s.cpu.p := rfl
@[simp] theorem setPc_countdown (v : Word) : (s.setPc v).cpu.countdown = s.cpu.countdown := rfl
@[simp] theorem setPc_nmiPending (v : Word) : (s.setPc v).cpu.nmiPending = s.cpu.nmiPending := rfl
@[simp] theorem setPc_ram (v : Word) : (s.setPc v).ram = s.ram := rfl
@[simp] theorem setPc_clockCounter (v : Word) : (s.setPc v).clockCounter = s.clockCounter := rfl
@[simp] theorem setPc_bringupRam (v : Word) : (s.setPc v).bringupRam = s.bringupRam := rfl
@[simp] theorem setPc_ppu (v : Word) : (s.setPc v).ppu = s.ppu := rfl
@[simp] theorem setPc_cart (v : Word) : (s.setPc v).cart = s.cart := rfl
@[simp] theorem setPc_ctl (v : Word) : (s.setPc v).ctl = s.ctl := rfl
@[simp] theorem setPc_params (v : Word) : (s.setPc v).params = s.params := rfl

/-! ### setP -/

@[simp] theorem setP_a (v : Byte) : (s.setP v).cpu.a = s.cpu.a := rfl
@[simp] theorem setP_x (v : Byte) : (s.setP v).cpu.x = s.cpu.x := rfl
@[simp] theorem setP_y (v : Byte) : (s.setP v).cpu.y = s.cpu.y := rfl
@[simp] theorem setP_sp (v : Byte) : (s.setP v).cpu.sp = s.cpu.sp := rfl
@[simp] theorem setP_pc (v : Byte) : (s.setP v).cpu.pc = s.cpu.pc := rfl
@[simp] theorem setP_p (v : Byte) : (s.setP v).cpu.p = v := rfl
@[simp] theorem setP_countdown (v : Byte) : (s.setP v).cpu.countdown = s.cpu.countdown := rfl
@[simp] theorem setP_nmiPending (v : Byte) : (s.setP v).cpu.nmiPending = s.cpu.nmiPending := rfl
@[simp] theorem setP_ram (v : Byte) : (s.setP v).ram = s.ram := rfl
@[simp] theorem setP_clockCounter (v : Byte) : (s.setP v).clockCounter = s.clockCounter := rfl
@[simp] theorem setP_bringupRam (v : Byte) : (s.setP v).bringupRam = s.bringupRam := rfl
@[simp] theorem setP_ppu (v : Byte) : (s.setP v).ppu = s.ppu := rfl
@[simp] theorem setP_cart (v : Byte) : (s.setP v).cart = s.cart := rfl
@[simp] theorem setP_ctl (v : Byte) : (s.setP v).ctl = s.ctl := rfl
@[simp] theorem setP_params (v : Byte) : (s.setP v).params = s.params := rfl

/-! ### setCountdown -/

@[simp] theorem setCountdown_a (v : Nat) : (s.setCountdown v).cpu.a = s.cpu.a := rfl
@[simp] theorem setCountdown_x (v : Nat) : (s.setCountdown v).cpu.x = s.cpu.x := rfl
@[simp] theorem setCountdown_y (v : Nat) : (s.setCountdown v).cpu.y = s.cpu.y := rfl
@[simp] theorem setCountdown_sp (v : Nat) : (s.setCountdown v).cpu.sp = s.cpu.sp := rfl
@[simp] theorem setCountdown_pc (v : Nat) : (s.setCountdown v).cpu.pc = s.cpu.pc := rfl
@[simp] theorem setCountdown_p (v : Nat) : (s.setCountdown v).cpu.p = s.cpu.p := rfl
@[simp] theorem setCountdown_countdown (v : Nat) : (s.setCountdown v).cpu.countdown = v := rfl
@[simp] theorem setCountdown_nmiPending (v : Nat) : (s.setCountdown v).cpu.nmiPending = s.cpu.nmiPending := rfl
@[simp] theorem setCountdown_ram (v : Nat) : (s.setCountdown v).ram = s.ram := rfl
@[simp] theorem setCountdown_clockCounter (v : Nat) : (s.setCountdown v).clockCounter = s.clockCounter := rfl
@[simp] theorem setCountdown_bringupRam (v : Nat) : (s.setCountdown v).bringupRam = s.bringupRam := rfl
@[simp] theorem setCountdown_ppu (v : Nat) : (s.setCountdown v).ppu = s.ppu := rfl
@[simp] theorem setCountdown_cart (v : Nat) : (s.setCountdown v).cart = s.cart := rfl
@[simp] theorem setCountdown_ctl (v : Nat) : (s.setCountdown v).ctl = s.ctl := rfl
@[simp] theorem setCountdown_params (v : Nat) : (s.setCountdown v).params = s.params := rfl

/-! ### setNmiPending -/

@[simp] theorem setNmiPending_a (v : Bool) : (s.setNmiPending v).cpu.a = s.cpu.a := rfl
@[simp] theorem setNmiPending_x (v : Bool) : (s.setNmiPending v).cpu.x = s.cpu.x := rfl
@[simp] theorem setNmiPending_y (v : Bool) : (s.setNmiPending v).cpu.y = s.cpu.y := rfl
@[simp] theorem setNmiPending_sp (v : Bool) : (s.setNmiPending v).cpu.sp = s.cpu.sp := rfl
@[simp] theorem setNmiPending_pc (v : Bool) : (s.setNmiPending v).cpu.pc = s.cpu.pc := rfl
@[simp] theorem setNmiPending_p (v : Bool) : (s.setNmiPending v).cpu.p = s.cpu.p := rfl
@[simp] theorem setNmiPending_countdown (v : Bool) : (s.setNmiPending v).cpu.countdown = s.cpu.countdown := rfl
@[simp] theorem setNmiPending_nmiPending (v : Bool) : (s.setNmiPending v).cpu.nmiPending = v := rfl
@[simp] theorem setNmiPending_ram (v : Bool) : (s.setNmiPending v).ram = s.ram := rfl
@[simp] theorem setNmiPending_clockCounter (v : Bool) : (s.setNmiPending v).clockCounter = s.clockCounter := rfl
@[simp] theorem setNmiPending_bringupRam (v : Bool) : (s.setNmiPending v).bringupRam = s.bringupRam := rfl
@[simp] theorem setNmiPending_ppu (v : Bool) : (s.setNmiPending v).ppu = s.ppu := rfl
@[simp] theorem setNmiPending_cart (v : Bool) : (s.setNmiPending v).cart = s.cart := rfl
@[simp] theorem setNmiPending_ctl (v : Bool) : (s.setNmiPending v).ctl = s.ctl := rfl
@[simp] theorem setNmiPending_params (v : Bool) : (s.setNmiPending v).params = s.params := rfl

/-! ### setRam -/

@[simp] theorem setRam_a (v : Memory) : (s.setRam v).cpu.a = s.cpu.a := rfl
@[simp] theorem setRam_x (v : Memory) : (s.setRam v).cpu.x = s.cpu.x := rfl
@[simp] theorem setRam_y (v : Memory) : (s.setRam v).cpu.y = s.cpu.y := rfl
@[simp] theorem setRam_sp (v : Memory) : (s.setRam v).cpu.sp = s.cpu.sp := rfl
@[simp] theorem setRam_pc (v : Memory) : (s.setRam v).cpu.pc = s.cpu.pc := rfl
@[simp] theorem setRam_p (v : Memory) : (s.setRam v).cpu.p = s.cpu.p := rfl
@[simp] theorem setRam_countdown (v : Memory) : (s.setRam v).cpu.countdown = s.cpu.countdown := rfl
@[simp] theorem setRam_nmiPending (v : Memory) : (s.setRam v).cpu.nmiPending = s.cpu.nmiPending := rfl
@[simp] theorem setRam_ram (v : Memory) : (s.setRam v).ram = v := rfl
@[simp] theorem setRam_clockCounter (v : Memory) : (s.setRam v).clockCounter = s.clockCounter := rfl
@[simp] theorem setRam_bringupRam (v : Memory) : (s.setRam v).bringupRam = s.bringupRam := rfl
@[simp] theorem setRam_ppu (v : Memory) : (s.setRam v).ppu = s.ppu := rfl
@[simp] theorem setRam_cart (v : Memory) : (s.setRam v).cart = s.cart := rfl
@[simp] theorem setRam_ctl (v : Memory) : (s.setRam v).ctl = s.ctl := rfl
@[simp] theorem setRam_params (v : Memory) : (s.setRam v).params = s.params := rfl
@[simp] theorem setRam_cpu (v : Memory) : (s.setRam v).cpu = s.cpu := rfl

/-! ### setClock -/

@[simp] theorem setClock_a (v : Nat) : (s.setClock v).cpu.a = s.cpu.a := rfl
@[simp] theorem setClock_x (v : Nat) : (s.setClock v).cpu.x = s.cpu.x := rfl
@[simp] theorem setClock_y (v : Nat) : (s.setClock v).cpu.y = s.cpu.y := rfl
@[simp] theorem setClock_sp (v : Nat) : (s.setClock v).cpu.sp = s.cpu.sp := rfl
@[simp] theorem setClock_pc (v : Nat) : (s.setClock v).cpu.pc = s.cpu.pc := rfl
@[simp] theorem setClock_p (v : Nat) : (s.setClock v).cpu.p = s.cpu.p := rfl
@[simp] theorem setClock_countdown (v : Nat) : (s.setClock v).cpu.countdown = s.cpu.countdown := rfl
@[simp] theorem setClock_nmiPending (v : Nat) : (s.setClock v).cpu.nmiPending = s.cpu.nmiPending := rfl
@[simp] theorem setClock_ram (v : Nat) : (s.setClock v).ram = s.ram := rfl
@[simp] theorem setClock_clockCounter (v : Nat) : (s.setClock v).clockCounter = v := rfl
@[simp] theorem setClock_bringupRam (v : Nat) : (s.setClock v).bringupRam = s.bringupRam := rfl
@[simp] theorem setClock_ppu (v : Nat) : (s.setClock v).ppu = s.ppu := rfl
@[simp] theorem setClock_cart (v : Nat) : (s.setClock v).cart = s.cart := rfl
@[simp] theorem setClock_ctl (v : Nat) : (s.setClock v).ctl = s.ctl := rfl
@[simp] theorem setClock_params (v : Nat) : (s.setClock v).params = s.params := rfl
@[simp] theorem setClock_cpu (v : Nat) : (s.setClock v).cpu = s.cpu := rfl

/-! ### setBringup -/

@[simp] theorem setBringup_a (v : Memory) : (s.setBringup v).cpu.a = s.cpu.a := rfl
@[simp] theorem setBringup_x (v : Memory) : (s.setBringup v).cpu.x = s.cpu.x := rfl
@[simp] theorem setBringup_y (v : Memory) : (s.setBringup v).cpu.y = s.cpu.y := rfl
@[simp] theorem setBringup_sp (v : Memory) : (s.setBringup v).cpu.sp = s.cpu.sp := rfl
@[simp] theorem setBringup_pc (v : Memory) : (s.setBringup v).cpu.pc = s.cpu.pc := rfl
@[simp] theorem setBringup_p (v : Memory) : (s.setBringup v).cpu.p = s.cpu.p := rfl
@[simp] theorem setBringup_countdown (v : Memory) : (s.setBringup v).cpu.countdown = s.cpu.countdown := rfl
@[simp] theorem setBringup_nmiPending (v : Memory) : (s.setBringup v).cpu.nmiPending = s.cpu.nmiPending := rfl
@[simp] theorem setBringup_ram (v : Memory) : (s.setBringup v).ram = s.ram := rfl
@[simp] theorem setBringup_clockCounter (v : Memory) : (s.setBringup v).clockCounter = s.clockCounter := rfl
@[simp] theorem setBringup_bringupRam (v : Memory) : (s.setBringup v).bringupRam = v := rfl
@[simp] theorem setBringup_ppu (v : Memory) : (s.setBringup v).ppu = s.ppu := rfl
@[simp] theorem setBringup_cart (v : Memory) : (s.setBringup v).cart = s.cart := rfl
@[simp] theorem setBringup_ctl (v : Memory) : (s.setBringup v).ctl = s.ctl := rfl
@[simp] theorem setBringup_params (v : Memory) : (s.setBringup v).params = s.params := rfl
@[simp] theorem setBringup_cpu (v : Memory) : (s.setBringup v).cpu = s.cpu := rfl

/-! ### setPpu -/

@[simp] theorem setPpu_a (v : Ppu) : (s.setPpu v).cpu.a = s.cpu.a := rfl
@[simp] theorem setPpu_x (v : Ppu) : (s.setPpu v).cpu.x = s.cpu.x := rfl
@[simp] theorem setPpu_y (v : Ppu) : (s.setPpu v).cpu.y = s.cpu.y := rfl
@[simp] theorem setPpu_sp (v : Ppu) : (s.setPpu v).cpu.sp = s.cpu.sp := rfl
@[simp] theorem setPpu_pc (v : Ppu) : (s.setPpu v).cpu.pc = s.cpu.pc := rfl
@[simp] theorem setPpu_p (v : Ppu) : (s.setPpu v).cpu.p = s.cpu.p := rfl
@[simp] theorem setPpu_countdown (v : Ppu) : (s.setPpu v).cpu.countdown = s.cpu.countdown := rfl
@[simp] theorem setPpu_nmiPending (v : Ppu) : (s.setPpu v).cpu.nmiPending = s.cpu.nmiPending := rfl
@[simp] theorem setPpu_ram (v : Ppu) : (s.setPpu v).ram = s.ram := rfl
@[simp] theorem setPpu_clockCounter (v : Ppu) : (s.setPpu v).clockCounter = s.clockCounter := rfl
@[simp] theorem setPpu_bringupRam (v : Ppu) : (s.setPpu v).bringupRam = s.bringupRam := rfl
@[simp] theorem setPpu_ppu (v : Ppu) : (s.setPpu v).ppu = v := rfl
@[simp] theorem setPpu_cart (v : Ppu) : (s.setPpu v).cart = s.cart := rfl
@[simp] theorem setPpu_ctl (v : Ppu) : (s.setPpu v).ctl = s.ctl := rfl
@[simp] theorem setPpu_params (v : Ppu) : (s.setPpu v).params = s.params := rfl
@[simp] theorem setPpu_cpu (v : Ppu) : (s.setPpu v).cpu = s.cpu := rfl

/-! ### setCart -/

@[simp] theorem setCart_a (v : Option Cartridge) : (s.setCart v).cpu.a = s.cpu.a := rfl
@[simp] theorem setCart_x (v : Option Cartridge) : (s.setCart v).cpu.x = s.cpu.x := rfl
@[simp] theorem setCart_y (v : Option Cartridge) : (s.setCart v).cpu.y = s.cpu.y := rfl
@[simp] theorem setCart_sp (v : Option Cartridge) : (s.setCart v).cpu.sp = s.cpu.sp := rfl
@[simp] theorem setCart_pc (v : Option Cartridge) : (s.setCart v).cpu.pc = s.cpu.pc := rfl
@[simp] theorem setCart_p (v : Option Cartridge) : (s.setCart v).cpu.p = s.cpu.p := rfl
@[simp] theorem setCart_countdown (v : Option Cartridge) : (s.setCart v).cpu.countdown = s.cpu.countdown := rfl
@[simp] theorem setCart_nmiPending (v : Option Cartridge) : (s.setCart v).cpu.nmiPending = s.cpu.nmiPending := rfl
@[simp] theorem setCart_ram (v : Option Cartridge) : (s.setCart v).ram = s.ram := rfl
@[simp] theorem setCart_clockCounter (v : Option Cartridge) : (s.setCart v).clockCounter = s.clockCounter := rfl
@[simp] theorem setCart_bringupRam (v : Option Cartridge) : (s.setCart v).bringupRam = s.bringupRam := rfl
@[simp] theorem setCart_ppu (v : Option Cartridge) : (s.setCart v).ppu = s.ppu := rfl
@[simp] theorem setCart_cart (v : Option Cartridge) : (s.setCart v).cart = v := rfl
@[simp] theorem setCart_ctl (v : Option Cartridge) : (s.setCart v).ctl = s.ctl := rfl
@[simp] theorem setCart_params (v : Option Cartridge) : (s.setCart v).params = s.params := rfl
@[simp] theorem setCart_cpu (v : Option Cartridge) : (s.setCart v).cpu = s.cpu := rfl

/-! ### setCtl -/

@[simp] theorem setCtl_a (v : Controllers) : (s.setCtl v).cpu.a = s.cpu.a := rfl
@[simp] theorem setCtl_x (v : Controllers) : (s.setCtl v).cpu.x = s.cpu.x := rfl
@[simp] theorem setCtl_y (v : Controllers) : (s.setCtl v).cpu.y = s.cpu.y := rfl
@[simp] theorem setCtl_sp (v : Controllers) : (s.setCtl v).cpu.sp = s.cpu.sp := rfl
@[simp] theorem setCtl_pc (v : Controllers) : (s.setCtl v).cpu.pc = s.cpu.pc := rfl
@[simp] theorem setCtl_p (v : Controllers) : (s.setCtl v).cpu.p = s.cpu.p := rfl
@[simp] theorem setCtl_countdown (v : Controllers) : (s.setCtl v).cpu.countdown = s.cpu.countdown := rfl
@[simp] theorem setCtl_nmiPending (v : Controllers) : (s.setCtl v).cpu.nmiPending = s.cpu.nmiPending := rfl
@[simp] theorem setCtl_ram (v : Controllers) : (s.setCtl v).ram = s.ram := rfl
@[simp] theorem setCtl_clockCounter (v : Controllers) : (s.setCtl v).clockCounter = s.clockCounter := rfl
@[simp] theorem setCtl_bringupRam (v : Controllers) : (s.setCtl v).bringupRam = s.bringupRam := rfl
@[simp] theorem setCtl_ppu (v : Controllers) : (s.setCtl v).ppu = s.ppu := rfl
@[simp] theorem setCtl_cart (v : Controllers) : (s.setCtl v).cart = s.cart := rfl
@[simp] theorem setCtl_ctl (v : Controllers) : (s.setCtl v).ctl = v := rfl
@[simp] theorem setCtl_params (v : Controllers) : (s.setCtl v).params = s.params := rfl
@[simp] theorem setCtl_cpu (v : Controllers) : (s.setCtl v).cpu = s.cpu := rfl

/-! ### mapP -/

@[simp] theorem mapP_a (f : Byte → Byte) : (s.mapP f).cpu.a = s.cpu.a := rfl
@[simp] theorem mapP_x (f : Byte → Byte) : (s.mapP f).cpu.x = s.cpu.x := rfl
@[simp] theorem mapP_y (f : Byte → Byte) : (s.mapP f).cpu.y = s.cpu.y := rfl
@[simp] theorem mapP_sp (f : Byte → Byte) : (s.mapP f).cpu.sp = s.cpu.sp := rfl
@[simp] theorem mapP_pc (f : Byte → Byte) : (s.mapP f).cpu.pc = s.cpu.pc := rfl
@[simp] theorem mapP_p (f : Byte → Byte) : (s.mapP f).cpu.p = f s.cpu.p := rfl
@[simp] theorem mapP_countdown (f : Byte → Byte) : (s.mapP f).cpu.countdown = s.cpu.countdown := rfl
@[simp] theorem mapP_nmiPending (f : Byte → Byte) : (s.mapP f).cpu.nmiPending = s.cpu.nmiPending := rfl
@[simp] theorem mapP_ram (f : Byte → Byte) : (s.mapP f).ram = s.ram := rfl
@[simp] theorem mapP_clockCounter (f : Byte → Byte) : (s.mapP f).clockCounter = s.clockCounter := rfl
@[simp] theorem mapP_bringupRam (f : Byte → Byte) : (s.mapP f).bringupRam = s.bringupRam := rfl
@[simp] theorem mapP_ppu (f : Byte → Byte) : (s.mapP f).ppu = s.ppu := rfl
@[simp] theorem mapP_cart (f : Byte → Byte) : (s.mapP f).cart = s.cart := rfl
@[simp] theorem mapP_ctl (f : Byte → Byte) : (s.mapP f).ctl = s.ctl := rfl
@[simp] theorem mapP_params (f : Byte → Byte) : (s.mapP f).params = s.params := rfl

/-! ### addCycles -/

@[simp] theorem addCycles_a (n : Nat) : (s.addCycles n).cpu.a = s.cpu.a := rfl
@[simp] theorem addCycles_x (n : Nat) : (s.addCycles n).cpu.x = s.cpu.x := rfl
@[simp] theorem addCycles_y (n : Nat) : (s.addCycles n).cpu.y = s.cpu.y := rfl
@[simp] theorem addCycles_sp (n : Nat) : (s.addCycles n).cpu.sp = s.cpu.sp := rfl
@[simp] theorem addCycles_pc (n : Nat) : (s.addCycles n).cpu.pc = s.cpu.pc := rfl
@[simp] theorem addCycles_p (n : Nat) : (s.addCycles n).cpu.p = s.cpu.p := rfl
@[simp] theorem addCycles_countdown (n : Nat) : (s.addCycles n).cpu.countdown = s.cpu.countdown + n := rfl
@[simp] theorem addCycles_nmiPending (n : Nat) : (s.addCycles n).cpu.nmiPending = s.cpu.nmiPending := rfl
@[simp] theorem addCycles_ram (n : Nat) : (s.addCycles n).ram = s.ram := rfl
@[simp] theorem addCycles_clockCounter (n : Nat) : (s.addCycles n).clockCounter = s.clockCounter := rfl
@[simp] theorem addCycles_bringupRam (n : Nat) : (s.addCycles n).bringupRam = s.bringupRam := rfl
@[simp] theorem addCycles_ppu (n : Nat) : (s.addCycles n).ppu = s.ppu := rfl
@[simp] theorem addCycles_cart (n : Nat) : (s.addCycles n).cart = s.cart := rfl
@[simp] theorem addCycles_ctl (n : Nat) : (s.addCycles n).ctl = s.ctl := rfl
@[simp] theorem addCycles_params (n : Nat) : (s.addCycles n).params = s.params := rfl

/-! ### Updates that meet -/

@[simp] theorem setPpu_setPpu (p q : Ppu) : (s.setPpu p).setPpu q = s.setPpu q := rfl
@[simp] theorem setCart_setCart (c d : Option Cartridge) : (s.setCart c).setCart d = s.setCart d := rfl
@[simp] theorem setPpu_self : s.setPpu s.ppu = s := rfl
@[simp] theorem setCart_self : s.setCart s.cart = s := rfl
@[simp] theorem setRam_self : s.setRam s.ram = s := rfl
@[simp] theorem setCtl_self : s.setCtl s.ctl = s := rfl

end Sys2Proof.Machine.State
end

