-- ==== Sys2Proof/Laws/Bus.lean ====
section
/-! SUPPORT. The CPU bus: what stands behind an address, what a read can change and what a write can change. -/

namespace Sys2Proof.Machine

open Bits

/-! ## Targets -/

theorem target_ram {a : Word} (h : a.toNat ≤ 0x1FFF) : target a = .ram (a.toNat % 0x800) := by simp [target, h]

theorem target_register {a : Word} (h : 0x2000 ≤ a.toNat) (h' : a.toNat ≤ 0x3FFF) :
    target a = .ppuReg (a.toNat % 8) := by
  simp [target, h', show ¬ a.toNat ≤ 0x1FFF by omega]

theorem target_isRegister {a : Word} {r : Nat} (h : isRegister r a) : target a = .ppuReg r := by
  rw [target_register h.1 h.2.1, h.2.2]

theorem target_prg {a : Word} (h : 0x8000 ≤ a.toNat) : target a = .prg := by
  simp only [target]
  rw [if_neg (by omega), if_neg (by omega), if_neg (by omega), if_neg (by omega), if_neg (by omega), if_neg (by omega)]

theorem target_nothing {a : Word} (h : 0x4000 ≤ a.toNat) (h' : a.toNat ≤ 0x7FFF) (h1 : a.toNat ≠ 0x4014)
    (h2 : a.toNat ≠ 0x4016) (h3 : a.toNat ≠ 0x4017) : target a = .nothing := by
  simp only [target]
  rw [if_neg (by omega), if_neg (by omega), if_neg h1, if_neg h2, if_neg h3, if_pos h']

theorem target_eq_ram {a : Word} {i : Nat} (h : target a = .ram i) : a.toNat ≤ 0x1FFF ∧ i = a.toNat % 0x800 := by
  simp only [target] at h
  split at h
  · exact ⟨‹_›, by simpa using h.symm⟩
  · repeat' split at h
    all_goals simp at h

theorem target_eq_ppuReg {a : Word} {r : Nat} (h : target a = .ppuReg r) : isRegister r a := by
  simp only [target] at h
  split at h
  · simp at h
  · split at h
    · exact ⟨by omega, ‹_›, by simpa using h⟩
    · repeat' split at h
      all_goals simp at h

theorem target_eq_prg {a : Word} (h : target a = .prg) : 0x8000 ≤ a.toNat := by
  simp only [target] at h
  repeat' split at h
  all_goals first | (simp at h; done) | omega

theorem target_eq_oamDma {a : Word} (h : target a = .oamDma) : a = 0x4014 := by
  simp only [target] at h
  repeat' split at h
  all_goals first | (simp at h; done) | (apply BitVec.eq_of_toNat_eq; simpa)

theorem target_eq_port {a : Word} {n : Port} (h : target a = .port n) :
    a = match n with | .zero => 0x4016 | .one => 0x4017 := by
  simp only [target] at h
  repeat' split at h
  all_goals first | (simp at h; done) | (simp at h; subst h; apply BitVec.eq_of_toNat_eq; simpa)

/-- A register index is below 8. -/
theorem target_ppuReg_lt {a : Word} {r : Nat} (h : target a = .ppuReg r) : r < 8 := by
  have := (target_eq_ppuReg h).2.2
  omega

@[simp] theorem target_zeroPage (b : Byte) : target (zext16 b) = .ram b.toNat := by
  have := b.isLt
  rw [target_ram (by simp; omega)]
  simp; omega

@[simp] theorem stackAddress_toNat (sp : Byte) : (stackAddress sp).toNat = 0x100 + sp.toNat := by
  have := sp.isLt
  have h := Nat.two_pow_add_eq_or_of_lt (b := sp.toNat) (i := 8) sp.isLt 1
  simp only [stackAddress, BitVec.toNat_or, zext16_toNat]
  simpa using h.symm

/-- SP designates RAM whatever its value (R31). -/
@[simp] theorem target_stackAddress (sp : Byte) : target (stackAddress sp) = stackSlot sp := by
  have := sp.isLt
  rw [target_ram (by simp; omega)]
  simp [stackSlot]; omega

theorem stackSlot_inj {p q : Byte} : stackSlot p = stackSlot q ↔ p = q := by
  constructor
  · intro h
    apply BitVec.eq_of_toNat_eq
    simpa [stackSlot] using h
  · rintro rfl; rfl

@[simp] theorem target_vectors : target 0xFFFA = .prg ∧ target 0xFFFB = .prg ∧ target 0xFFFC = .prg ∧
    target 0xFFFD = .prg ∧ target 0xFFFE = .prg ∧ target 0xFFFF = .prg := by decide

/-! ## Reads -/

theorem busRead_ram {a : Word} {i : Nat} (s : State) (h : target a = .ram i) : busRead a s = Cells.read s.ram i := by
  simp [busRead, h]

@[simp] theorem busRead_zeroPage (b : Byte) (s : State) : busRead (zext16 b) s = Cells.read s.ram b.toNat := by
  simp [busRead]

@[simp] theorem busRead_stack (sp : Byte) (s : State) :
    busRead (stackAddress sp) s = Cells.read s.ram (0x100 + sp.toNat) := by
  simp [busRead, stackSlot]

/-- Reading depends on RAM, bring-up RAM, the PPU, the cartridge and the ports only. -/
theorem busRead_congr {s t : State} (a : Word) (h1 : t.ram = s.ram) (h2 : t.bringupRam = s.bringupRam)
    (h3 : t.ppu = s.ppu) (h4 : t.cart = s.cart) (h5 : t.ctl = s.ctl) : busRead a t = busRead a s := by
  simp [busRead, h1, h2, h3, h4, h5]

theorem readsAlike_of_sameOutside {s t : State} (h : sameOutside s t) : readsAlike s t :=
  fun a => busRead_congr a h.1 h.2.1 h.2.2.1 h.2.2.2.1 h.2.2.2.2.1

/-! ## What a read changes -/

@[simp] theorem afterRead_cpu (a : Word) (s : State) : (afterRead a s).cpu = s.cpu := by
  unfold afterRead; split <;> rfl
@[simp] theorem afterRead_ram (a : Word) (s : State) : (afterRead a s).ram = s.ram := by
  unfold afterRead; split <;> rfl
@[simp] theorem afterRead_bringupRam (a : Word) (s : State) : (afterRead a s).bringupRam = s.bringupRam := by
  unfold afterRead; split <;> rfl
@[simp] theorem afterRead_cart (a : Word) (s : State) : (afterRead a s).cart = s.cart := by
  unfold afterRead; split <;> rfl
@[simp] theorem afterRead_clockCounter (a : Word) (s : State) : (afterRead a s).clockCounter = s.clockCounter := by
  unfold afterRead; split <;> rfl
@[simp] theorem afterRead_params (a : Word) (s : State) : (afterRead a s).params = s.params := by
  unfold afterRead; split <;> rfl

/-- A read of memory has no side effect (R112). -/
theorem afterRead_memory {a : Word} (s : State) (h : canHoldCode a = true) : afterRead a s = s := by
  unfold canHoldCode at h
  unfold afterRead
  split <;> simp_all

theorem afterRead_of_ram {a : Word} {i : Nat} (s : State) (h : target a = .ram i) : afterRead a s = s := by
  simp [afterRead, h]

theorem afterRead_of_prg {a : Word} (s : State) (h : target a = .prg) : afterRead a s = s := by simp [afterRead, h]

@[simp] theorem afterRead_zeroPage (b : Byte) (s : State) : afterRead (zext16 b) s = s := by simp [afterRead]

@[simp] theorem afterRead_stack (sp : Byte) (s : State) : afterRead (stackAddress sp) s = s := by
  simp [afterRead, stackSlot]

/-- A PPU register read changes at most v, the write toggle, the data buffer and the VBlank flag. -/
theorem ppuRegReadEffect_frame (cart : Option Cartridge) (p : Ppu) (r : Nat) :
    ppuRegReadEffect cart p r =
      { p with
        v := (ppuRegReadEffect cart p r).v
        w := (ppuRegReadEffect cart p r).w
        dataBuffer := (ppuRegReadEffect cart p r).dataBuffer
        vblank := (ppuRegReadEffect cart p r).vblank } := by
  unfold ppuRegReadEffect; split <;> rfl

/-- A bus read changes at most that of the PPU. -/
theorem afterRead_ppu_frame (a : Word) (s : State) :
    (afterRead a s).ppu =
      { s.ppu with
        v := (afterRead a s).ppu.v
        w := (afterRead a s).ppu.w
        dataBuffer := (afterRead a s).ppu.dataBuffer
        vblank := (afterRead a s).ppu.vblank } := by
  unfold afterRead
  split
  · exact ppuRegReadEffect_frame ..
  all_goals rfl

@[simp] theorem afterRead_oam (a : Word) (s : State) : (afterRead a s).ppu.oam = s.ppu.oam := by
  rw [afterRead_ppu_frame]
@[simp] theorem afterRead_nmiOut (a : Word) (s : State) : (afterRead a s).ppu.nmiOut = s.ppu.nmiOut := by
  rw [afterRead_ppu_frame]
@[simp] theorem afterRead_oamAddr (a : Word) (s : State) : (afterRead a s).ppu.oamAddr = s.ppu.oamAddr := by
  rw [afterRead_ppu_frame]

@[simp] theorem afterRead_strobe (a : Word) (s : State) : (afterRead a s).ctl.strobe = s.ctl.strobe := by
  unfold afterRead; split <;> try rfl
  simp only [State.setCtl_ctl, ctlReadEffect, Controllers.setShift]; split <;> [rfl; (split <;> rfl)]
@[simp] theorem afterRead_buttons0 (a : Word) (s : State) : (afterRead a s).ctl.buttons0 = s.ctl.buttons0 := by
  unfold afterRead; split <;> try rfl
  simp only [State.setCtl_ctl, ctlReadEffect, Controllers.setShift]; split <;> [rfl; (split <;> rfl)]
@[simp] theorem afterRead_buttons1 (a : Word) (s : State) : (afterRead a s).ctl.buttons1 = s.ctl.buttons1 := by
  unfold afterRead; split <;> try rfl
  simp only [State.setCtl_ctl, ctlReadEffect, Controllers.setShift]; split <;> [rfl; (split <;> rfl)]

/-- A read leaves what every address of memory reads as. -/
@[simp] theorem busRead_afterRead {b : Word} (a : Word) (s : State) (h : canHoldCode b = true) :
    busRead b (afterRead a s) = busRead b s := by
  unfold canHoldCode at h
  unfold busRead
  split <;> simp_all

@[simp] theorem busRead_setPpu_ne {b : Word} (s : State) (p : Ppu) (h : canHoldCode b = true) :
    busRead b (s.setPpu p) = busRead b s := by
  unfold canHoldCode at h
  unfold busRead
  split <;> simp_all

/-! ## Operands -/

/-- Computing an effective address has no side effect: pointers lie in the zero page. -/
@[simp] theorem afterEa_eq (m : MemMode) (s : State) : afterEa m s = s := by
  cases m <;> simp [afterEa, afterPointer]

theorem memValue_eq (m : MemMode) (s : State) : memValue m s = busRead (ea m s) s := by simp [memValue]

theorem afterMem_eq (m : MemMode) (s : State) : afterMem m s = afterRead (ea m s) s := by simp [afterMem]

theorem srcValue_eq (o : Src) (s : State) : srcValue o s = operandByte o s := by
  cases o <;> simp [srcValue, operandByte, memValue_eq]

/-- The state an operand read leaves: the read's side effects and the penalty of R184. -/
theorem afterSrc_eq (o : Src) (s : State) : afterSrc o s = (operandRead o s).addCycles (operandCycles o s) := by
  cases o with
  | imm v => rfl
  | mem m => simp [afterSrc, operandRead, operandCycles, afterMem_eq]

theorem store_eq (m : MemMode) (v : Byte) (s : State) : store m v s = busWrite (ea m s) v s := by simp [store]

theorem rmwValue_eq (o : Rmw) (s : State) : rmwValue o s = rmwByte o s := by
  cases o <;> simp [rmwValue, rmwByte, operandByte, memValue_eq]

theorem rmwStore_mem (m : MemMode) (f : Byte → Byte) (r : Byte) (s : State) :
    rmwStore (.mem m) f r s = (busWrite (ea m s) r (operandRead (.mem m) s)).mapP f := by
  simp [rmwStore, operandRead, afterMem_eq]

@[simp] theorem operandRead_cpu (o : Src) (s : State) : (operandRead o s).cpu = s.cpu := by
  cases o <;> simp [operandRead]

/-- Reading an operand leaves what every address of memory reads as. -/
theorem operandRead_memory (o : Src) (s : State) : memoryReadsAlike s (operandRead o s) := by
  intro a ha
  cases o with
  | imm v => rfl
  | mem m => exact busRead_afterRead _ _ ha

/-! ## Writes -/

theorem busWrite_of_ram {a : Word} {i : Nat} (v : Byte) (s : State) (h : target a = .ram i) :
    busWrite a v s = s.setRam (Cells.write s.ram i v) := by simp [busWrite, h]

@[simp] theorem busWrite_stack (sp v : Byte) (s : State) :
    busWrite (stackAddress sp) v s = s.setRam (Cells.write s.ram (0x100 + sp.toNat) v) := by
  simp [busWrite, stackSlot]

/-- A PPU register write touches the PPU, and through PPUDATA the CHR RAM; nothing else. -/
theorem ppuRegWrite_frame (r : Nat) (v : Byte) (s : State) :
    ppuRegWrite r v s = { s with ppu := (ppuRegWrite r v s).ppu, cart := (ppuRegWrite r v s).cart } := by
  unfold ppuRegWrite
  split <;> try rfl
  simp only [ppuDataWrite, ppuWrite]
  split
  · rfl
  · split <;> rfl

theorem ppuRegWrite_cart_ne {r : Nat} (v : Byte) (s : State) (h : r ≠ 7) : (ppuRegWrite r v s).cart = s.cart := by
  unfold ppuRegWrite
  split <;> first | rfl | exact absurd rfl h

/-- One byte of the DMA copy: a bus read, and one byte of OAM. -/
theorem dmaByte_eq (page : Byte) (i : Nat) (s : State) :
    dmaByte page i s =
      (afterRead (word page (BitVec.ofNat 8 i)) s).setPpu
        { (afterRead (word page (BitVec.ofNat 8 i)) s).ppu with
          oam := Cells.write s.ppu.oam i (busRead (word page (BitVec.ofNat 8 i)) s) } := by
  simp [dmaByte]

/-- A property that every byte of the copy keeps is kept by the whole copy. -/
theorem dmaCopy_keeps {P : State → Prop} (page : Byte) (h : ∀ i, i < 256 → ∀ s, P s → P (dmaByte page i s))
    (n i : Nat) (s : State) (hs : P s) (hi : i + n ≤ 256) : P (dmaCopy page n i s) := by
  induction n generalizing i s with
  | zero => exact hs
  | succ n ih => exact ih (i + 1) _ (h i (by omega) s hs) (by omega)

/-- The copy as a sequence of states. -/
theorem dmaCopy_iterate (page : Byte) (n i : Nat) (s : State) :
    ∃ u : Nat → State, u i = s ∧ (∀ k, i ≤ k → k < i + n → u (k + 1) = dmaByte page k (u k)) ∧
      dmaCopy page n i s = u (i + n) := by
  induction n generalizing i s with
  | zero => exact ⟨fun _ => s, rfl, fun k h1 h2 => by omega, rfl⟩
  | succ n ih =>
    obtain ⟨u, h0, h1, h2⟩ := ih (i + 1) (dmaByte page i s)
    refine ⟨fun k => if k = i then s else u k, by simp, fun k hk hk' => ?_, ?_⟩
    · by_cases hki : k = i
      · subst hki; simp [h0]
      · simp only [hki, if_false, show k + 1 ≠ i by omega]
        exact h1 k (by omega) (by omega)
    · simp only [dmaCopy, h2, show i + (n + 1) ≠ i by omega, if_false]
      congr 1; omega

/-- The DMA copy touches the PPU and, through its reads, the port shifters; nothing else. -/
theorem dmaCopy_frame (page : Byte) (n i : Nat) (s : State) :
    dmaCopy page n i s = { s with ppu := (dmaCopy page n i s).ppu, ctl := (dmaCopy page n i s).ctl } := by
  have key : ∀ n i s, (dmaCopy page n i s).cpu = s.cpu ∧ (dmaCopy page n i s).ram = s.ram ∧
      (dmaCopy page n i s).clockCounter = s.clockCounter ∧ (dmaCopy page n i s).bringupRam = s.bringupRam ∧
      (dmaCopy page n i s).cart = s.cart ∧ (dmaCopy page n i s).params = s.params := by
    intro n
    induction n with
    | zero => intro i s; simp [dmaCopy]
    | succ n ih =>
      intro i s
      obtain ⟨h1, h2, h3, h4, h5, h6⟩ := ih (i + 1) (dmaByte page i s)
      simp only [dmaCopy]
      rw [h1, h2, h3, h4, h5, h6, dmaByte_eq]
      simp
  obtain ⟨h1, h2, h3, h4, h5, h6⟩ := key n i s
  rw [← h1, ← h2, ← h3, ← h4, ← h5, ← h6]

theorem oamDma_frame (page : Byte) (s : State) :
    oamDma page s =
      { s with
        cpu := { s.cpu with countdown := s.cpu.countdown + Config.oamDmaStall }
        ppu := (oamDma page s).ppu
        ctl := (oamDma page s).ctl } := by
  have h := dmaCopy_frame page Config.oamSize 0 s
  have hcpu : (dmaCopy page Config.oamSize 0 s).cpu = s.cpu := by rw [h]
  simp only [oamDma]
  rw [hcpu]
  conv_lhs => rw [h]
  rfl

/-- What a bus write can change: RAM, bring-up RAM, the PPU, the cartridge, the ports, and of the CPU the countdown, which
an OAM DMA raises by its stall. -/
theorem busWrite_frame (a : Word) (v : Byte) (s : State) :
    (busWrite a v s).cpu =
        { s.cpu with
          countdown := s.cpu.countdown + (if target a = .oamDma then Config.oamDmaStall else 0) } ∧
      (busWrite a v s).clockCounter = s.clockCounter ∧ (busWrite a v s).params = s.params := by
  unfold busWrite
  split
  · rename_i h; simp [h]
  · rename_i h; rw [ppuRegWrite_frame]; simp [h]
  · rename_i h; rw [oamDma_frame]; simp [h]
  · rename_i h; simp [h]
  · rename_i h; simp [h]
  · rename_i h; simp [h]
  · rename_i h; split <;> simp [h]

/-- What a bus write does to the memories and devices, by its target. -/
theorem busWrite_outside (a : Word) (v : Byte) (s : State) :
    ((∀ i, target a ≠ .ram i) → (busWrite a v s).ram = s.ram) ∧
    (target a ≠ .prg → (busWrite a v s).bringupRam = s.bringupRam) ∧
    ((∀ r, target a ≠ .ppuReg r) → target a ≠ .oamDma → (busWrite a v s).ppu = s.ppu) ∧
    ((∀ n, target a ≠ .port n) → target a ≠ .oamDma → (busWrite a v s).ctl = s.ctl) ∧
    (target a ≠ .ppuReg 7 → target a ≠ .prg → (busWrite a v s).cart = s.cart) := by
  unfold busWrite
  split
  · rename_i h; simp [h]
  · rename_i r h
    refine ⟨?_, ?_, ?_, ?_, ?_⟩
    · rw [ppuRegWrite_frame]; simp
    · rw [ppuRegWrite_frame]; simp
    · intro h'; exact absurd h (h' r)
    · rw [ppuRegWrite_frame]; simp
    · intro h' _; exact ppuRegWrite_cart_ne v s (by rintro rfl; exact h' h)
  · rename_i h; rw [oamDma_frame]; simp [h]
  · rename_i h; simp [h]
  · rename_i h; simp
  · rename_i h; simp
  · rename_i h; split <;> simp [h]

/-- PRG and the cartridge's other constants survive every CHR write. -/
theorem chrWrite_constants (cart : Option Cartridge) (a : Nat) (v : Byte) :
    (chrWrite cart a v).map Cartridge.constants = cart.map Cartridge.constants := by
  unfold chrWrite
  split
  · rfl
  · split
    · rename_i h; simp [Cartridge.constants, h]
    · rfl

theorem ppuRegWrite_constants (r : Nat) (v : Byte) (s : State) :
    (ppuRegWrite r v s).cart.map Cartridge.constants = s.cart.map Cartridge.constants := by
  unfold ppuRegWrite
  split <;> try rfl
  simp only [ppuDataWrite, ppuWrite, State.setPpu_cart]
  split
  · exact chrWrite_constants ..
  · split <;> rfl

/-- No bus write changes a constant of the cartridge (R58). -/
theorem busWrite_constants (a : Word) (v : Byte) (s : State) :
    (busWrite a v s).cart.map Cartridge.constants = s.cart.map Cartridge.constants := by
  unfold busWrite
  split
  · rfl
  · exact ppuRegWrite_constants ..
  · rw [oamDma_frame]
  · rfl
  · rfl
  · rfl
  · split
    · rfl
    · rename_i c hc
      simp only [State.setCart_cart, Option.map_some, hc, prgWrite]
      split <;> rfl

/-- PRG reads depend on the cartridge's constants only. -/
theorem busRead_prg_congr {s t : State} {a : Word} (h : target a = .prg) (hb : t.bringupRam = s.bringupRam)
    (hc : t.cart.map Cartridge.constants = s.cart.map Cartridge.constants) : busRead a t = busRead a s := by
  simp only [busRead, h]
  cases hs : s.cart with
  | none =>
    cases ht : t.cart with
    | none => rw [hb]
    | some d => simp [hs, ht] at hc
  | some c =>
    cases ht : t.cart with
    | none => simp [hs, ht] at hc
    | some d =>
      simp only [hs, ht, Option.map_some, Option.some.injEq, Cartridge.constants, Prod.mk.injEq] at hc
      obtain ⟨-, h2, -, -, h5, -⟩ := hc
      simp [prgIndex, h2, h5]

/-- A bus write leaves what every other address of memory reads as. -/
theorem busRead_busWrite_ne {a b : Word} (v : Byte) (s : State) (hb : canHoldCode b = true)
    (h : ¬ storesTo a b) : busRead b (busWrite a v s) = busRead b s := by
  have hframe := busWrite_outside a v s
  unfold canHoldCode at hb
  split at hb
  · rename_i i hi
    rw [busRead_ram _ hi, busRead_ram _ hi]
    by_cases ha : ∃ j, target a = .ram j
    · obtain ⟨j, hj⟩ := ha
      have hne : i ≠ j := by rintro rfl; exact h (.inr ⟨i, hi, hj⟩)
      rw [busWrite_of_ram _ _ hj]
      simp [hne]
    · rw [hframe.1 fun i hi => ha ⟨i, hi⟩]
  · rename_i hp
    by_cases ha : target a = .prg
    · have h1 := target_eq_prg ha
      have h2 := target_eq_prg hp
      have hne : b ≠ a := fun e => h (.inl e)
      have hne' : b.toNat ≠ a.toNat := fun e => hne (BitVec.eq_of_toNat_eq e)
      cases hc : s.cart with
      | none =>
        simp [busRead, busWrite, ha, hp, hc]
        rw [Cells.read_write_ne _ (by omega)]
      | some c =>
        simp only [busRead, busWrite, ha, hp, hc, State.setCart_cart, prgWrite, prgIndex]
        split <;> rfl
    · exact busRead_prg_congr hp (hframe.2.1 ha) (busWrite_constants a v s)
  all_goals simp at hb

end Sys2Proof.Machine
end

