-- ==== Sys2Proof/Laws/Decode.lean ====
section
/-! SUPPORT. The dispatch table, entry by entry: what every opcode's entry has whatever the operand bytes are. -/

namespace Sys2Proof

open Bits

/-- A property of the 256 opcodes as one of numerals. -/
theorem forall_opcode {P : Byte → Prop} (h : ∀ n : Fin 256, P (BitVec.ofFin n)) (op : Byte) : P op := h op.toFin

/-- The instruction is the default entry. -/
def Instr.isDefault : Instr → Bool
  | .unassigned _ => true
  | _ => false

set_option maxRecDepth 100000 in
/-- Every entry carries the opcode it stands under, is well formed, and has the mode and the cycles that the opcode alone
gives; the default entry stands under the unassigned opcodes only. -/
theorem dispatch_entry (b1 b2 op : Byte) :
    (dispatch op b1 b2).opcode = some op ∧ (dispatch op b1 b2).wellFormed = true ∧
      (dispatch op b1 b2).mode = (dispatch op 0 0).mode ∧
      (dispatch op b1 b2).baseCycles = (dispatch op 0 0).baseCycles ∧
      (dispatch op b1 b2).isDefault = decide (op.toNat ∈ unassignedOpcodes) :=
  forall_opcode (P := fun op =>
    (dispatch op b1 b2).opcode = some op ∧ (dispatch op b1 b2).wellFormed = true ∧
      (dispatch op b1 b2).mode = (dispatch op 0 0).mode ∧
      (dispatch op b1 b2).baseCycles = (dispatch op 0 0).baseCycles ∧
      (dispatch op b1 b2).isDefault = decide (op.toNat ∈ unassignedOpcodes))
    (of_decide_eq_true (Eq.refl true)) op

/-- The operand of an entry is as many of the bytes after the opcode as the opcode has. -/
theorem dispatch_operand (b1 b2 op : Byte) : (dispatch op b1 b2).operand = [b1, b2].take (operandCount op) := by
  unfold operandCount dispatch
  split <;>
    simp [Instr.operand, Src.bytes, Rmw.bytes, MemMode.bytes, JumpTarget.bytes, wordBytes, Instr.operandBytes, Instr.mode,
      ModeName.operandBytes, Src.name, Rmw.name, MemMode.name, JumpTarget.name]

theorem dispatch_operandBytes (b1 b2 op : Byte) : (dispatch op b1 b2).operandBytes = operandCount op := by
  unfold operandCount Instr.operandBytes
  rw [(dispatch_entry b1 b2 op).2.2.1]

theorem operandCount_le (op : Byte) : operandCount op ≤ 2 := by
  unfold operandCount Instr.operandBytes
  cases (dispatch op 0 0).mode <;> simp [ModeName.operandBytes]

/-- Bytes the opcode does not have are not looked at. -/
theorem dispatch_unused (b1 b2 op : Byte) :
    (operandCount op = 0 → dispatch op b1 b2 = dispatch op 0 0) ∧
      (operandCount op = 1 → dispatch op b1 b2 = dispatch op b1 0) := by
  unfold operandCount dispatch
  split <;>
    simp [Instr.operandBytes, Instr.mode, ModeName.operandBytes, Src.name, Rmw.name, MemMode.name, JumpTarget.name]

/-- Decoding the bytes of an opcode and what follows it. -/
theorem decode_bytes (op b1 b2 : Byte) (rest : List Byte) :
    decode (op :: ([b1, b2].take (operandCount op) ++ rest)) = .ok (dispatch op b1 b2, rest) := by
  have h := operandCount_le op
  obtain ⟨h0, h1⟩ := dispatch_unused b1 b2 op
  have hc : operandCount op = 0 ∨ operandCount op = 1 ∨ operandCount op = 2 := by omega
  rcases hc with hc | hc | hc
  · simp [decode, hc, h0 hc]
  · simp [decode, hc, h1 hc]
  · simp [decode, hc]

/-- Whatever decodes is an opcode's entry with its operand bytes. -/
theorem decode_eq_ok {bytes rest : List Byte} {i : Instr} (h : decode bytes = .ok (i, rest)) :
    ∃ op b1 b2, i = dispatch op b1 b2 ∧ bytes = op :: ([b1, b2].take (operandCount op) ++ rest) := by
  cases bytes with
  | nil => simp [decode] at h
  | cons op tail =>
    have hle := operandCount_le op
    have hc : operandCount op = 0 ∨ operandCount op = 1 ∨ operandCount op = 2 := by omega
    rcases hc with hc | hc | hc
    · simp only [decode, hc, Except.ok.injEq, Prod.mk.injEq] at h
      exact ⟨op, 0, 0, h.1.symm, by simp [hc, h.2]⟩
    · match tail with
      | [] => simp [decode, hc] at h
      | b1 :: tail =>
        simp only [decode, hc, Except.ok.injEq, Prod.mk.injEq] at h
        exact ⟨op, b1, 0, h.1.symm, by simp [hc, h.2]⟩
    · match tail with
      | [] => simp [decode, hc] at h
      | [b1] => simp [decode, hc] at h
      | b1 :: b2 :: tail =>
        simp only [decode, hc, Except.ok.injEq, Prod.mk.injEq] at h
        exact ⟨op, b1, b2, h.1.symm, by simp [hc, h.2]⟩

/-- The default entry stands under the unassigned opcodes, and carries its own. -/
theorem dispatch_eq_unassigned {op b1 b2 op' : Byte} (h : dispatch op b1 b2 = .unassigned op') :
    op' = op ∧ op.toNat ∈ unassignedOpcodes := by
  obtain ⟨h1, -, -, -, h5⟩ := dispatch_entry b1 b2 op
  rw [h] at h1 h5
  have hm : op.toNat ∈ unassignedOpcodes := by simpa [Instr.isDefault] using h5
  refine ⟨?_, hm⟩
  simp only [Instr.opcode] at h1
  split at h1
  · simpa using h1
  · simp at h1

theorem dispatch_unassigned {op : Byte} (b1 b2 : Byte) (h : op.toNat ∈ unassignedOpcodes) :
    dispatch op b1 b2 = .unassigned op := by
  obtain ⟨h1, -, -, -, h5⟩ := dispatch_entry b1 b2 op
  simp only [h, decide_true] at h5
  cases hd : dispatch op b1 b2 <;> simp [hd, Instr.isDefault] at h5
  rw [(dispatch_eq_unassigned hd).1]

theorem exists_word (w : Word) : ∃ lo hi, w = word hi lo := ⟨loByte w, hiByte w, (word_bytes w).symm⟩

/-- A well-formed instruction is the entry of its opcode with its operand bytes. -/
theorem dispatch_of_wellFormed (i : Instr) (h : i.wellFormed = true) :
    ∃ op b1 b2, i.opcode = some op ∧ dispatch op b1 b2 = i := by
  have byte : ∀ (op b : Byte), i.opcode = some op → dispatch op b 0 = i →
      ∃ op b1 b2, i.opcode = some op ∧ dispatch op b1 b2 = i := fun op b h1 h2 => ⟨op, b, 0, h1, h2⟩
  have wrd : ∀ (op lo hi : Byte), i.opcode = some op → dispatch op lo hi = i →
      ∃ op b1 b2, i.opcode = some op ∧ dispatch op b1 b2 = i := fun op lo hi h1 h2 => ⟨op, lo, hi, h1, h2⟩
  cases i with
  | unassigned op =>
    have h' : op.toNat ∈ unassignedOpcodes := by simpa [Instr.wellFormed] using h
    exact ⟨op, 0, 0, by simp [Instr.opcode, h'], dispatch_unassigned 0 0 h'⟩
  | jmp o =>
    rcases o with w | w <;> obtain ⟨lo, hi, rfl⟩ := exists_word w <;> exact wrd _ lo hi rfl rfl
  | jsr w => obtain ⟨lo, hi, rfl⟩ := exists_word w; exact wrd _ lo hi rfl rfl
  | lda o | ldx o | ldy o | adc o | sbc o | and o | ora o | eor o | cmp o | cpx o | cpy o =>
    rcases o with v | (b | b | b | w | w | w | b | b)
    all_goals first
      | exact byte _ v rfl rfl
      | exact byte _ b rfl rfl
      | (obtain ⟨lo, hi, rfl⟩ := exists_word w; exact wrd _ lo hi rfl rfl)
      | simp [Instr.wellFormed, accumulatorModes, Src.name, MemMode.name] at h
  | sta o | stx o | sty o | bit o | inc o | dec o =>
    rcases o with b | b | b | w | w | w | b | b
    all_goals first
      | exact byte _ b rfl rfl
      | (obtain ⟨lo, hi, rfl⟩ := exists_word w; exact wrd _ lo hi rfl rfl)
      | simp [Instr.wellFormed, MemMode.name] at h
  | asl o | lsr o | rol o | ror o =>
    rcases o with _ | (b | b | b | w | w | w | b | b)
    all_goals first
      | exact byte _ 0 rfl rfl
      | exact byte _ b rfl rfl
      | (obtain ⟨lo, hi, rfl⟩ := exists_word w; exact wrd _ lo hi rfl rfl)
      | simp [Instr.wellFormed, Rmw.name, MemMode.name] at h
  | bcc b | bcs b | beq b | bmi b | bne b | bpl b | bvc b | bvs b => exact byte _ b rfl rfl
  | _ => exact byte _ 0 rfl rfl

/-- The encoding of a dispatch entry. -/
theorem encode_dispatch (op b1 b2 : Byte) :
    encode (dispatch op b1 b2) = some (op :: [b1, b2].take (operandCount op)) := by
  simp [encode, (dispatch_entry b1 b2 op).1, dispatch_operand]

/-- Every instruction takes 2 to 7 cycles. -/
theorem baseCycles_range (i : Instr) : 2 ≤ i.baseCycles ∧ i.baseCycles ≤ 7 := by
  have hr : ∀ m, 2 ≤ readCycles m ∧ readCycles m ≤ 7 := by intro m; cases m <;> decide
  have hs : ∀ m, 2 ≤ storeCycles m ∧ storeCycles m ≤ 7 := by intro m; cases m <;> decide
  have hm : ∀ m, 2 ≤ rmwCycles m ∧ rmwCycles m ≤ 7 := by intro m; cases m <;> decide
  cases i
  case jmp o => cases o <;> simp [Instr.baseCycles]
  all_goals first | exact hr _ | exact hs _ | exact hm _ | simp [Instr.baseCycles, Config.illegalOpcodeCycles]

end Sys2Proof
end

