-- ==== Sys2Proof/Laws/Flags.lean ====
section
/-! SUPPORT. The flags of P: reading a flag after any of the flag operations. -/

namespace Sys2Proof.Machine

/-- A flag after a flag write: the written one has the new value, the others are kept. -/
@[simp] theorem getFlag_putFlag (f g : Flag) (b : Bool) (p : Byte) :
    getFlag f (putFlag g b p) = if f = g then b else getFlag f p := by
  cases f <;> cases g <;> cases b <;> simp [getFlag, putFlag, Flag.bit]

/-- P is determined by its flags. -/
theorem ext_of_getFlag {p q : Byte} (h : ∀ f, getFlag f p = getFlag f q) : p = q := by
  apply BitVec.eq_of_getLsbD_eq
  intro i hi
  have h0 := h .c; have h1 := h .z; have h2 := h .i; have h3 := h .d
  have h4 := h .b; have h5 := h .u; have h6 := h .v; have h7 := h .n
  simp only [getFlag, Flag.bit] at h0 h1 h2 h3 h4 h5 h6 h7
  match i, hi with
  | 0, _ => exact h0
  | 1, _ => exact h1
  | 2, _ => exact h2
  | 3, _ => exact h3
  | 4, _ => exact h4
  | 5, _ => exact h5
  | 6, _ => exact h6
  | 7, _ => exact h7

@[simp] theorem getFlag_putNZ (f : Flag) (r p : Byte) :
    getFlag f (putNZ r p) = if f = .z then decide (r = 0) else if f = .n then r.getLsbD 7 else getFlag f p := by
  simp [putNZ]

@[simp] theorem getFlag_pushedByBrk (f : Flag) (p : Byte) :
    getFlag f (pushedByBrk p) = if f = .b ∨ f = .u then true else getFlag f p := by
  cases f <;> simp [getFlag, pushedByBrk, Flag.bit]

@[simp] theorem getFlag_pushedByNmi (f : Flag) (p : Byte) :
    getFlag f (pushedByNmi p) = if f = .u then true else if f = .b then false else getFlag f p := by
  cases f <;> simp [getFlag, pushedByNmi, Flag.bit]

@[simp] theorem getFlag_restored (f : Flag) (p : Byte) :
    getFlag f (restored p) = if f = .u then true else if f = .b then false else getFlag f p := by
  cases f <;> simp [getFlag, restored, Flag.bit]

@[simp] theorem getFlag_putCompare (f : Flag) (reg m p : Byte) :
    getFlag f (putCompare reg m p) =
      if f = .n then (reg - m).getLsbD 7 else if f = .z then decide (reg = m)
      else if f = .c then decide (m.toNat ≤ reg.toNat) else getFlag f p := by
  simp [putCompare]

@[simp] theorem getFlag_putBit (f : Flag) (a m p : Byte) :
    getFlag f (putBit a m p) =
      if f = .v then m.getLsbD 6 else if f = .n then m.getLsbD 7 else if f = .z then decide (a &&& m = 0)
      else getFlag f p := by
  simp [putBit]

@[simp] theorem getFlag_putShift (f : Flag) (out : Bool) (r p : Byte) :
    getFlag f (putShift out r p) =
      if f = .z then decide (r = 0) else if f = .n then r.getLsbD 7 else if f = .c then out else getFlag f p := by
  simp [putShift]

@[simp] theorem getFlag_putSum (f : Flag) (a m p : Byte) :
    getFlag f (putSum a m p) =
      if f = .z then decide (sumByte a m (getFlag .c p) = 0)
      else if f = .n then (sumByte a m (getFlag .c p)).getLsbD 7
      else if f = .v then overflows a m (sumByte a m (getFlag .c p))
      else if f = .c then decide (sum a m (getFlag .c p) > 0xFF) else getFlag f p := by
  simp [putSum]

/-- The hard-wired bits of P: U is 1 and B is 0 (R34, R35). -/
theorem restored_fixed (p : Byte) : getFlag .u (restored p) = true ∧ getFlag .b (restored p) = false := by simp

end Sys2Proof.Machine
end

