-- ==== Sys2Proof/Laws/Ops.lean ====
section
/-! SUPPORT. The shared operations over registers, stack and memory: what each can do, said once. -/

namespace Sys2Proof.Machine

open Bits

/-! ## Reads after register updates -/

section
variable (a : Word) (s : State)

@[simp] theorem busRead_setA (v : Byte) : busRead a (s.setA v) = busRead a s := rfl
@[simp] theorem busRead_setX (v : Byte) : busRead a (s.setX v) = busRead a s := rfl
@[simp] theorem busRead_setY (v : Byte) : busRead a (s.setY v) = busRead a s := rfl
@[simp] theorem busRead_setSp (v : Byte) : busRead a (s.setSp v) = busRead a s := rfl
@[simp] theorem busRead_setPc (v : Word) : busRead a (s.setPc v) = busRead a s := rfl
@[simp] theorem busRead_setP (v : Byte) : busRead a (s.setP v) = busRead a s := rfl
@[simp] theorem busRead_mapP (f : Byte → Byte) : busRead a (s.mapP f) = busRead a s := rfl
@[simp] theorem busRead_setCountdown (n : Nat) : busRead a (s.setCountdown n) = busRead a s := rfl
@[simp] theorem busRead_addCycles (n : Nat) : busRead a (s.addCycles n) = busRead a s := rfl
@[simp] theorem busRead_setNmiPending (b : Bool) : busRead a (s.setNmiPending b) = busRead a s := rfl
@[simp] theorem busRead_setClock (n : Nat) : busRead a (s.setClock n) = busRead a s := rfl

@[simp] theorem afterRead_setCountdown (n : Nat) : afterRead a (s.setCountdown n) = (afterRead a s).setCountdown n := by
  unfold afterRead; simp only [State.setCountdown_ppu, State.setCountdown_cart, State.setCountdown_ctl]; split <;> rfl

@[simp] theorem flag_mapP (f : Flag) (g : Byte → Byte) : (s.mapP g).flag f = getFlag f (g s.cpu.p) := rfl
@[simp] theorem flag_setP (f : Flag) (p : Byte) : (s.setP p).flag f = getFlag f p := rfl
end

/-- The stack byte is a byte of RAM. -/
theorem stackByte_eq (sp : Byte) (s : State) : stackByte sp s = Cells.read s.ram (0x100 + sp.toNat) := by
  simp [stackByte]

/-! ## The stack (R300, R301) -/

/-- `Push`: one byte of RAM, and SP. -/
theorem push_eq (v : Byte) (s : State) :
    push v s = (s.setRam (Cells.write s.ram (0x100 + s.cpu.sp.toNat) v)).setSp (s.cpu.sp - 1) := by
  simp [push]

theorem pulled_eq (s : State) : pulled s = stackByte (s.cpu.sp + 1) s := rfl

/-- `Pull` changes SP only: the stack page is RAM. -/
theorem afterPull_eq (s : State) : afterPull s = s.setSp (s.cpu.sp + 1) := by simp [afterPull]

theorem pulled16_eq (s : State) :
    pulled16 s = word (stackByte (s.cpu.sp + 2) s) (stackByte (s.cpu.sp + 1) s) := by
  simp only [pulled16, afterPull_eq, pulled_eq, State.setSp_sp, stackByte, busRead_setSp]
  rw [show s.cpu.sp + 1 + 1 = s.cpu.sp + 2 by ring]

theorem afterPull16_eq (s : State) : afterPull16 s = s.setSp (s.cpu.sp + 2) := by
  simp only [afterPull16, afterPull_eq, State.setSp_sp]
  rw [show s.cpu.sp + 1 + 1 = s.cpu.sp + 2 by ring]
  rfl

/-- What one push does to the bytes of the stack. -/
theorem stackByte_push (v sp : Byte) (s : State) (h : Memory.wf s.ram = true) :
    stackByte sp (push v s) = if sp = s.cpu.sp then v else stackByte sp s := by
  rw [push_eq, stackByte_eq, stackByte_eq]
  simp only [State.setSp_ram, State.setRam_ram]
  split
  · subst_vars; exact Cells.read_write_self _ _ h
  · rename_i hne
    refine Cells.read_write_ne _ fun e => hne (BitVec.eq_of_toNat_eq (by omega))

/-- The memory after a push is canonical. -/
theorem push_wf (v : Byte) (s : State) (h : Memory.wf s.ram = true) : Memory.wf (push v s).ram = true := by
  rw [push_eq]; exact Cells.write_wf _ _ h

/-- A slot holds what its RAM byte holds. -/
theorem slotHolds_iff (sp v : Byte) (s : State) : slotHolds sp v s ↔ stackByte sp s = v := by
  constructor
  · intro h; exact h _ (target_stackAddress sp)
  · intro h a ha
    rw [busRead_ram _ (by simpa [stackSlot] using ha), ← h, stackByte_eq]

/-- States that differ in RAM bytes of the listed indexes only read alike outside them. -/
theorem readsAlikeExcept_of_ram {stored : List Target} {s t : State} (h : sameButRam s t)
    (hr : ∀ i, Target.ram i ∉ stored → Cells.read t.ram i = Cells.read s.ram i) : readsAlikeExcept stored s t := by
  intro a ha
  obtain ⟨h1, h2, h3, h4, -, -⟩ := h
  unfold busRead
  split
  · rename_i i hi; exact hr i (by rwa [← hi])
  all_goals simp [h1, h2, h3, h4]

/-! ## 16-bit reads -/

/-- A word read from memory has no side effect. -/
theorem afterReadWord_prg {a : Word} (s : State) (h : target a = .prg) (h' : target (a + 1) = .prg) :
    afterReadWord a s = s := by
  rw [afterReadWord, afterRead_of_prg _ h, afterRead_of_prg _ h']

theorem readWord_prg {a : Word} (s : State) (h : target a = .prg) :
    readWord a s = word (busRead (a + 1) s) (busRead a s) := by
  simp [readWord, afterRead_of_prg _ h]

/-- PRG reads as before after any change to registers and RAM. -/
theorem busRead_prg_setRam {a : Word} (s : State) (m : Memory) (h : target a = .prg) :
    busRead a (s.setRam m) = busRead a s := by simp [busRead, h]

/-! ## Interrupts -/

/-- RAM after the three pushes of an interrupt. -/
def interruptRam (returnTo : Word) (status : Byte) (s : State) : Memory :=
  Cells.write
    (Cells.write (Cells.write s.ram (0x100 + s.cpu.sp.toNat) (hiByte returnTo)) (0x100 + (s.cpu.sp - 1).toNat)
      (loByte returnTo))
    (0x100 + (s.cpu.sp - 2).toNat) status

/-- Taking an interrupt through a vector in PRG: three bytes of RAM, SP, I and PC; nothing else. -/
theorem takeInterrupt_eq {vector : Word} (returnTo : Word) (status : Byte) (s : State) (h : target vector = .prg)
    (h' : target (vector + 1) = .prg) :
    takeInterrupt returnTo status vector s =
      { s with
        cpu := { s.cpu with
          sp := s.cpu.sp - 3
          p := putFlag .i true s.cpu.p
          pc := word (busRead (vector + 1) s) (busRead vector s) }
        ram := interruptRam returnTo status s } := by
  have e1 : s.cpu.sp - 1 - 1 = s.cpu.sp - 2 := by ring
  have e2 : s.cpu.sp - 2 - 1 = s.cpu.sp - 3 := by ring
  simp only [takeInterrupt, push16, push_eq, afterReadWord_prg _ h h', readWord_prg _ h, busRead_mapP, busRead_setSp,
    busRead_prg_setRam _ _ h, busRead_prg_setRam _ _ h', interruptRam, State.setSp_sp, State.setSp_ram, State.setRam_ram,
    e1, e2]
  rfl

theorem sp_ne1 (sp : Byte) : sp - 1 ≠ sp := by intro h; bv_omega
theorem sp_ne2 (sp : Byte) : sp - 2 ≠ sp := by intro h; bv_omega
theorem sp_ne12 (sp : Byte) : sp - 2 ≠ sp - 1 := by intro h; bv_omega

theorem slotIndex_ne {p q : Byte} (h : p ≠ q) : 0x100 + p.toNat ≠ 0x100 + q.toNat :=
  fun e => h (BitVec.eq_of_toNat_eq (by omega))

/-- The three bytes an interrupt pushes. -/
theorem interruptRam_slots (returnTo : Word) (status : Byte) (s : State) (h : Memory.wf s.ram = true) :
    Cells.read (interruptRam returnTo status s) (0x100 + s.cpu.sp.toNat) = hiByte returnTo ∧
    Cells.read (interruptRam returnTo status s) (0x100 + (s.cpu.sp - 1).toNat) = loByte returnTo ∧
    Cells.read (interruptRam returnTo status s) (0x100 + (s.cpu.sp - 2).toNat) = status := by
  have w1 := Cells.write_wf (0x100 + s.cpu.sp.toNat) (hiByte returnTo) h
  have w2 := Cells.write_wf (0x100 + (s.cpu.sp - 1).toNat) (loByte returnTo) w1
  have n1 := slotIndex_ne (sp_ne1 s.cpu.sp)
  have n2 := slotIndex_ne (sp_ne2 s.cpu.sp)
  have n3 := slotIndex_ne (sp_ne12 s.cpu.sp)
  unfold interruptRam
  refine ⟨?_, ?_, Cells.read_write_self _ _ w2⟩
  · rw [Cells.read_write_ne _ n2.symm, Cells.read_write_ne _ n1.symm, Cells.read_write_self _ _ h]
  · rw [Cells.read_write_ne _ n3.symm, Cells.read_write_self _ _ w1]

/-- Every other byte of RAM is kept. -/
theorem interruptRam_other (returnTo : Word) (status : Byte) (s : State) {i : Nat}
    (h1 : i ≠ 0x100 + s.cpu.sp.toNat) (h2 : i ≠ 0x100 + (s.cpu.sp - 1).toNat) (h3 : i ≠ 0x100 + (s.cpu.sp - 2).toNat) :
    Cells.read (interruptRam returnTo status s) i = Cells.read s.ram i := by
  unfold interruptRam
  rw [Cells.read_write_ne _ h3, Cells.read_write_ne _ h2, Cells.read_write_ne _ h1]

/-- What taking an interrupt does, in the words of claims. -/
theorem takeInterrupt_effect {vector : Word} (returnTo : Word) (status : Byte) (brk : Bool) (s : State)
    (hw : Memory.wf s.ram = true) (h : target vector = .prg) (h' : target (vector + 1) = .prg)
    (hs : ∀ f, getFlag f status = if f = .b then brk else if f = .u then true else s.flag f) :
    interruptEffect returnTo brk vector s (takeInterrupt returnTo status vector s) := by
  have hslots := interruptRam_slots returnTo status s hw
  rw [takeInterrupt_eq _ _ _ h h']
  refine ⟨rfl, rfl, rfl, rfl, rfl, ?_, ?_, ?_, ?_, ⟨status, ?_, hs⟩, ?_, ⟨rfl, rfl, rfl, rfl, rfl, rfl⟩⟩
  · simp [State.flag]
  · intro f hf; simp [State.flag] at hf ⊢; simp [hf]
  · rw [slotHolds_iff, stackByte_eq]; exact hslots.1
  · rw [slotHolds_iff, stackByte_eq]; exact hslots.2.1
  · rw [slotHolds_iff, stackByte_eq]; exact hslots.2.2
  · refine readsAlikeExcept_of_ram ⟨rfl, rfl, rfl, rfl, rfl, rfl⟩ fun i hi => ?_
    simp only [stackSlot, List.mem_cons, Target.ram.injEq, List.not_mem_nil, or_false, not_or] at hi
    exact interruptRam_other _ _ _ hi.1 hi.2.1 hi.2.2

/-- Returning from an interrupt: P, PC and SP only. -/
theorem returnFromInterrupt_eq (s : State) :
    returnFromInterrupt s =
      ((s.setSp (s.cpu.sp + 3)).setP (restored (stackByte (s.cpu.sp + 1) s))).setPc
        (word (stackByte (s.cpu.sp + 3) s) (stackByte (s.cpu.sp + 2) s)) := by
  have e1 : s.cpu.sp + 1 + 2 = s.cpu.sp + 3 := by ring
  have e2 : s.cpu.sp + 1 + 1 = s.cpu.sp + 2 := by ring
  simp only [returnFromInterrupt, afterPull_eq, afterPull16_eq, pulled16_eq, pulled_eq, State.setP_sp, State.setSp_sp,
    stackByte, busRead_setP, busRead_setSp, e1, e2]
  rfl

/-! ## Stores -/

/-- Everything a bus write does, in the words of claims. -/
theorem busWrite_storeEffect (e : Word) (v : Byte) (s : State) (hr : Memory.wf s.ram = true)
    (hb : Memory.wf s.bringupRam = true) : storeEffect e v s (busWrite e v s) := by
  obtain ⟨hcpu, hclock, hparams⟩ := busWrite_frame e v s
  obtain ⟨-, -, hppu, hctl, hcart⟩ := busWrite_outside e v s
  refine ⟨fun a ha hn => busRead_busWrite_ne v s ha hn, ?_, ?_, by rw [hcpu], hclock, hparams, hppu, hctl, hcart⟩
  · intro i hi
    rw [busWrite_of_ram _ _ hi, busRead_ram _ hi]
    exact Cells.read_write_self _ _ hr
  · intro hp
    cases hc : s.cart with
    | none => simp [busRead, busWrite, hp, hc, Cells.read_write_self _ _ hb]
    | some c =>
      simp only [busRead, busWrite, hp, hc, State.setCart_cart, prgWrite, prgIndex]
      split <;> rfl

/-- P is of no interest to a store's effect. -/
theorem storeEffect_setP {e : Word} {v p : Byte} {s t : State} (h : storeEffect e v s t) :
    storeEffect e v s (t.setP p) := by
  obtain ⟨h1, h2, h3, h4, h5⟩ := h
  refine ⟨h1, h2, h3, ?_, h5⟩
  show ({ t.cpu with p := p } : Cpu) = _
  rw [h4]
  rfl

/-! ## Branches -/

theorem branch_eq (cond : Bool) (op8 : Byte) (s : State) :
    branch cond op8 s =
      { s with
        cpu := if cond then
            { s.cpu with pc := branchTarget op8 s, countdown := s.cpu.countdown + branchCycles op8 s }
          else s.cpu } := by
  unfold branch; split <;> rfl

end Sys2Proof.Machine
end

