-- ==== Sys2Proof/Laws/PpuFields.lean ====
section
/-! SUPPORT. One lemma per field per action of the PPU's dot that leaves the field alone, each true by rfl or by cases; the
fields of a conditional action. -/

namespace Sys2Proof.Machine

variable (p : Ppu)

/-! ### a conditional action -/

@[simp] theorem when_ctrl (c : Bool) (g : Ppu → Ppu) : (p.when c g).ctrl = if c then (g p).ctrl else p.ctrl := by
  cases c <;> rfl
@[simp] theorem when_mask (c : Bool) (g : Ppu → Ppu) : (p.when c g).mask = if c then (g p).mask else p.mask := by
  cases c <;> rfl
@[simp] theorem when_vblank (c : Bool) (g : Ppu → Ppu) : (p.when c g).vblank = if c then (g p).vblank else p.vblank := by
  cases c <;> rfl
@[simp] theorem when_sprite0Hit (c : Bool) (g : Ppu → Ppu) : (p.when c g).sprite0Hit = if c then (g p).sprite0Hit else p.sprite0Hit := by
  cases c <;> rfl
@[simp] theorem when_spriteOverflow (c : Bool) (g : Ppu → Ppu) : (p.when c g).spriteOverflow = if c then (g p).spriteOverflow else p.spriteOverflow := by
  cases c <;> rfl
@[simp] theorem when_oamAddr (c : Bool) (g : Ppu → Ppu) : (p.when c g).oamAddr = if c then (g p).oamAddr else p.oamAddr := by
  cases c <;> rfl
@[simp] theorem when_v (c : Bool) (g : Ppu → Ppu) : (p.when c g).v = if c then (g p).v else p.v := by
  cases c <;> rfl
@[simp] theorem when_t (c : Bool) (g : Ppu → Ppu) : (p.when c g).t = if c then (g p).t else p.t := by
  cases c <;> rfl
@[simp] theorem when_x (c : Bool) (g : Ppu → Ppu) : (p.when c g).x = if c then (g p).x else p.x := by
  cases c <;> rfl
@[simp] theorem when_w (c : Bool) (g : Ppu → Ppu) : (p.when c g).w = if c then (g p).w else p.w := by
  cases c <;> rfl
@[simp] theorem when_dataBuffer (c : Bool) (g : Ppu → Ppu) : (p.when c g).dataBuffer = if c then (g p).dataBuffer else p.dataBuffer := by
  cases c <;> rfl
@[simp] theorem when_nmiOut (c : Bool) (g : Ppu → Ppu) : (p.when c g).nmiOut = if c then (g p).nmiOut else p.nmiOut := by
  cases c <;> rfl
@[simp] theorem when_vram (c : Bool) (g : Ppu → Ppu) : (p.when c g).vram = if c then (g p).vram else p.vram := by
  cases c <;> rfl
@[simp] theorem when_palette (c : Bool) (g : Ppu → Ppu) : (p.when c g).palette = if c then (g p).palette else p.palette := by
  cases c <;> rfl
@[simp] theorem when_oam (c : Bool) (g : Ppu → Ppu) : (p.when c g).oam = if c then (g p).oam else p.oam := by
  cases c <;> rfl
@[simp] theorem when_oam2 (c : Bool) (g : Ppu → Ppu) : (p.when c g).oam2 = if c then (g p).oam2 else p.oam2 := by
  cases c <;> rfl
@[simp] theorem when_scanline (c : Bool) (g : Ppu → Ppu) : (p.when c g).scanline = if c then (g p).scanline else p.scanline := by
  cases c <;> rfl
@[simp] theorem when_dot (c : Bool) (g : Ppu → Ppu) : (p.when c g).dot = if c then (g p).dot else p.dot := by
  cases c <;> rfl
@[simp] theorem when_frame (c : Bool) (g : Ppu → Ppu) : (p.when c g).frame = if c then (g p).frame else p.frame := by
  cases c <;> rfl
@[simp] theorem when_bgNextId (c : Bool) (g : Ppu → Ppu) : (p.when c g).bgNextId = if c then (g p).bgNextId else p.bgNextId := by
  cases c <;> rfl
@[simp] theorem when_bgNextAttr (c : Bool) (g : Ppu → Ppu) : (p.when c g).bgNextAttr = if c then (g p).bgNextAttr else p.bgNextAttr := by
  cases c <;> rfl
@[simp] theorem when_bgNextLo (c : Bool) (g : Ppu → Ppu) : (p.when c g).bgNextLo = if c then (g p).bgNextLo else p.bgNextLo := by
  cases c <;> rfl
@[simp] theorem when_bgNextHi (c : Bool) (g : Ppu → Ppu) : (p.when c g).bgNextHi = if c then (g p).bgNextHi else p.bgNextHi := by
  cases c <;> rfl
@[simp] theorem when_bgPatLo (c : Bool) (g : Ppu → Ppu) : (p.when c g).bgPatLo = if c then (g p).bgPatLo else p.bgPatLo := by
  cases c <;> rfl
@[simp] theorem when_bgPatHi (c : Bool) (g : Ppu → Ppu) : (p.when c g).bgPatHi = if c then (g p).bgPatHi else p.bgPatHi := by
  cases c <;> rfl
@[simp] theorem when_bgAttrLo (c : Bool) (g : Ppu → Ppu) : (p.when c g).bgAttrLo = if c then (g p).bgAttrLo else p.bgAttrLo := by
  cases c <;> rfl
@[simp] theorem when_bgAttrHi (c : Bool) (g : Ppu → Ppu) : (p.when c g).bgAttrHi = if c then (g p).bgAttrHi else p.bgAttrHi := by
  cases c <;> rfl
@[simp] theorem when_spriteCount (c : Bool) (g : Ppu → Ppu) : (p.when c g).spriteCount = if c then (g p).spriteCount else p.spriteCount := by
  cases c <;> rfl
@[simp] theorem when_sprLo (c : Bool) (g : Ppu → Ppu) : (p.when c g).sprLo = if c then (g p).sprLo else p.sprLo := by
  cases c <;> rfl
@[simp] theorem when_sprHi (c : Bool) (g : Ppu → Ppu) : (p.when c g).sprHi = if c then (g p).sprHi else p.sprHi := by
  cases c <;> rfl
@[simp] theorem when_sprite0InLine (c : Bool) (g : Ppu → Ppu) : (p.when c g).sprite0InLine = if c then (g p).sprite0InLine else p.sprite0InLine := by
  cases c <;> rfl
@[simp] theorem when_frameBuffer (c : Bool) (g : Ppu → Ppu) : (p.when c g).frameBuffer = if c then (g p).frameBuffer else p.frameBuffer := by
  cases c <;> rfl

/-! ### bgShift -/

@[simp] theorem bgShift_ctrl : (bgShift p).ctrl = p.ctrl := rfl
@[simp] theorem bgShift_mask : (bgShift p).mask = p.mask := rfl
@[simp] theorem bgShift_vblank : (bgShift p).vblank = p.vblank := rfl
@[simp] theorem bgShift_sprite0Hit : (bgShift p).sprite0Hit = p.sprite0Hit := rfl
@[simp] theorem bgShift_spriteOverflow : (bgShift p).spriteOverflow = p.spriteOverflow := rfl
@[simp] theorem bgShift_oamAddr : (bgShift p).oamAddr = p.oamAddr := rfl
@[simp] theorem bgShift_v : (bgShift p).v = p.v := rfl
@[simp] theorem bgShift_t : (bgShift p).t = p.t := rfl
@[simp] theorem bgShift_x : (bgShift p).x = p.x := rfl
@[simp] theorem bgShift_w : (bgShift p).w = p.w := rfl
@[simp] theorem bgShift_dataBuffer : (bgShift p).dataBuffer = p.dataBuffer := rfl
@[simp] theorem bgShift_nmiOut : (bgShift p).nmiOut = p.nmiOut := rfl
@[simp] theorem bgShift_vram : (bgShift p).vram = p.vram := rfl
@[simp] theorem bgShift_palette : (bgShift p).palette = p.palette := rfl
@[simp] theorem bgShift_oam : (bgShift p).oam = p.oam := rfl
@[simp] theorem bgShift_oam2 : (bgShift p).oam2 = p.oam2 := rfl
@[simp] theorem bgShift_scanline : (bgShift p).scanline = p.scanline := rfl
@[simp] theorem bgShift_dot : (bgShift p).dot = p.dot := rfl
@[simp] theorem bgShift_frame : (bgShift p).frame = p.frame := rfl
@[simp] theorem bgShift_bgNextId : (bgShift p).bgNextId = p.bgNextId := rfl
@[simp] theorem bgShift_bgNextAttr : (bgShift p).bgNextAttr = p.bgNextAttr := rfl
@[simp] theorem bgShift_bgNextLo : (bgShift p).bgNextLo = p.bgNextLo := rfl
@[simp] theorem bgShift_bgNextHi : (bgShift p).bgNextHi = p.bgNextHi := rfl
@[simp] theorem bgShift_spriteCount : (bgShift p).spriteCount = p.spriteCount := rfl
@[simp] theorem bgShift_sprLo : (bgShift p).sprLo = p.sprLo := rfl
@[simp] theorem bgShift_sprHi : (bgShift p).sprHi = p.sprHi := rfl
@[simp] theorem bgShift_sprite0InLine : (bgShift p).sprite0InLine = p.sprite0InLine := rfl
@[simp] theorem bgShift_frameBuffer : (bgShift p).frameBuffer = p.frameBuffer := rfl

/-! ### bgReload -/

@[simp] theorem bgReload_ctrl : (bgReload p).ctrl = p.ctrl := rfl
@[simp] theorem bgReload_mask : (bgReload p).mask = p.mask := rfl
@[simp] theorem bgReload_vblank : (bgReload p).vblank = p.vblank := rfl
@[simp] theorem bgReload_sprite0Hit : (bgReload p).sprite0Hit = p.sprite0Hit := rfl
@[simp] theorem bgReload_spriteOverflow : (bgReload p).spriteOverflow = p.spriteOverflow := rfl
@[simp] theorem bgReload_oamAddr : (bgReload p).oamAddr = p.oamAddr := rfl
@[simp] theorem bgReload_v : (bgReload p).v = p.v := rfl
@[simp] theorem bgReload_t : (bgReload p).t = p.t := rfl
@[simp] theorem bgReload_x : (bgReload p).x = p.x := rfl
@[simp] theorem bgReload_w : (bgReload p).w = p.w := rfl
@[simp] theorem bgReload_dataBuffer : (bgReload p).dataBuffer = p.dataBuffer := rfl
@[simp] theorem bgReload_nmiOut : (bgReload p).nmiOut = p.nmiOut := rfl
@[simp] theorem bgReload_vram : (bgReload p).vram = p.vram := rfl
@[simp] theorem bgReload_palette : (bgReload p).palette = p.palette := rfl
@[simp] theorem bgReload_oam : (bgReload p).oam = p.oam := rfl
@[simp] theorem bgReload_oam2 : (bgReload p).oam2 = p.oam2 := rfl
@[simp] theorem bgReload_scanline : (bgReload p).scanline = p.scanline := rfl
@[simp] theorem bgReload_dot : (bgReload p).dot = p.dot := rfl
@[simp] theorem bgReload_frame : (bgReload p).frame = p.frame := rfl
@[simp] theorem bgReload_bgNextId : (bgReload p).bgNextId = p.bgNextId := rfl
@[simp] theorem bgReload_bgNextAttr : (bgReload p).bgNextAttr = p.bgNextAttr := rfl
@[simp] theorem bgReload_bgNextLo : (bgReload p).bgNextLo = p.bgNextLo := rfl
@[simp] theorem bgReload_bgNextHi : (bgReload p).bgNextHi = p.bgNextHi := rfl
@[simp] theorem bgReload_spriteCount : (bgReload p).spriteCount = p.spriteCount := rfl
@[simp] theorem bgReload_sprLo : (bgReload p).sprLo = p.sprLo := rfl
@[simp] theorem bgReload_sprHi : (bgReload p).sprHi = p.sprHi := rfl
@[simp] theorem bgReload_sprite0InLine : (bgReload p).sprite0InLine = p.sprite0InLine := rfl
@[simp] theorem bgReload_frameBuffer : (bgReload p).frameBuffer = p.frameBuffer := rfl

/-! ### fetchNT -/

@[simp] theorem fetchNT_ctrl (cart : Option Cartridge) : (fetchNT cart p).ctrl = p.ctrl := rfl
@[simp] theorem fetchNT_mask (cart : Option Cartridge) : (fetchNT cart p).mask = p.mask := rfl
@[simp] theorem fetchNT_vblank (cart : Option Cartridge) : (fetchNT cart p).vblank = p.vblank := rfl
@[simp] theorem fetchNT_sprite0Hit (cart : Option Cartridge) : (fetchNT cart p).sprite0Hit = p.sprite0Hit := rfl
@[simp] theorem fetchNT_spriteOverflow (cart : Option Cartridge) : (fetchNT cart p).spriteOverflow = p.spriteOverflow := rfl
@[simp] theorem fetchNT_oamAddr (cart : Option Cartridge) : (fetchNT cart p).oamAddr = p.oamAddr := rfl
@[simp] theorem fetchNT_v (cart : Option Cartridge) : (fetchNT cart p).v = p.v := rfl
@[simp] theorem fetchNT_t (cart : Option Cartridge) : (fetchNT cart p).t = p.t := rfl
@[simp] theorem fetchNT_x (cart : Option Cartridge) : (fetchNT cart p).x = p.x := rfl
@[simp] theorem fetchNT_w (cart : Option Cartridge) : (fetchNT cart p).w = p.w := rfl
@[simp] theorem fetchNT_dataBuffer (cart : Option Cartridge) : (fetchNT cart p).dataBuffer = p.dataBuffer := rfl
@[simp] theorem fetchNT_nmiOut (cart : Option Cartridge) : (fetchNT cart p).nmiOut = p.nmiOut := rfl
@[simp] theorem fetchNT_vram (cart : Option Cartridge) : (fetchNT cart p).vram = p.vram := rfl
@[simp] theorem fetchNT_palette (cart : Option Cartridge) : (fetchNT cart p).palette = p.palette := rfl
@[simp] theorem fetchNT_oam (cart : Option Cartridge) : (fetchNT cart p).oam = p.oam := rfl
@[simp] theorem fetchNT_oam2 (cart : Option Cartridge) : (fetchNT cart p).oam2 = p.oam2 := rfl
@[simp] theorem fetchNT_scanline (cart : Option Cartridge) : (fetchNT cart p).scanline = p.scanline := rfl
@[simp] theorem fetchNT_dot (cart : Option Cartridge) : (fetchNT cart p).dot = p.dot := rfl
@[simp] theorem fetchNT_frame (cart : Option Cartridge) : (fetchNT cart p).frame = p.frame := rfl
@[simp] theorem fetchNT_bgNextAttr (cart : Option Cartridge) : (fetchNT cart p).bgNextAttr = p.bgNextAttr := rfl
@[simp] theorem fetchNT_bgNextLo (cart : Option Cartridge) : (fetchNT cart p).bgNextLo = p.bgNextLo := rfl
@[simp] theorem fetchNT_bgNextHi (cart : Option Cartridge) : (fetchNT cart p).bgNextHi = p.bgNextHi := rfl
@[simp] theorem fetchNT_bgPatLo (cart : Option Cartridge) : (fetchNT cart p).bgPatLo = p.bgPatLo := rfl
@[simp] theorem fetchNT_bgPatHi (cart : Option Cartridge) : (fetchNT cart p).bgPatHi = p.bgPatHi := rfl
@[simp] theorem fetchNT_bgAttrLo (cart : Option Cartridge) : (fetchNT cart p).bgAttrLo = p.bgAttrLo := rfl
@[simp] theorem fetchNT_bgAttrHi (cart : Option Cartridge) : (fetchNT cart p).bgAttrHi = p.bgAttrHi := rfl
@[simp] theorem fetchNT_spriteCount (cart : Option Cartridge) : (fetchNT cart p).spriteCount = p.spriteCount := rfl
@[simp] theorem fetchNT_sprLo (cart : Option Cartridge) : (fetchNT cart p).sprLo = p.sprLo := rfl
@[simp] theorem fetchNT_sprHi (cart : Option Cartridge) : (fetchNT cart p).sprHi = p.sprHi := rfl
@[simp] theorem fetchNT_sprite0InLine (cart : Option Cartridge) : (fetchNT cart p).sprite0InLine = p.sprite0InLine := rfl
@[simp] theorem fetchNT_frameBuffer (cart : Option Cartridge) : (fetchNT cart p).frameBuffer = p.frameBuffer := rfl

/-! ### fetchAT -/

@[simp] theorem fetchAT_ctrl (cart : Option Cartridge) : (fetchAT cart p).ctrl = p.ctrl := rfl
@[simp] theorem fetchAT_mask (cart : Option Cartridge) : (fetchAT cart p).mask = p.mask := rfl
@[simp] theorem fetchAT_vblank (cart : Option Cartridge) : (fetchAT cart p).vblank = p.vblank := rfl
@[simp] theorem fetchAT_sprite0Hit (cart : Option Cartridge) : (fetchAT cart p).sprite0Hit = p.sprite0Hit := rfl
@[simp] theorem fetchAT_spriteOverflow (cart : Option Cartridge) : (fetchAT cart p).spriteOverflow = p.spriteOverflow := rfl
@[simp] theorem fetchAT_oamAddr (cart : Option Cartridge) : (fetchAT cart p).oamAddr = p.oamAddr := rfl
@[simp] theorem fetchAT_v (cart : Option Cartridge) : (fetchAT cart p).v = p.v := rfl
@[simp] theorem fetchAT_t (cart : Option Cartridge) : (fetchAT cart p).t = p.t := rfl
@[simp] theorem fetchAT_x (cart : Option Cartridge) : (fetchAT cart p).x = p.x := rfl
@[simp] theorem fetchAT_w (cart : Option Cartridge) : (fetchAT cart p).w = p.w := rfl
@[simp] theorem fetchAT_dataBuffer (cart : Option Cartridge) : (fetchAT cart p).dataBuffer = p.dataBuffer := rfl
@[simp] theorem fetchAT_nmiOut (cart : Option Cartridge) : (fetchAT cart p).nmiOut = p.nmiOut := rfl
@[simp] theorem fetchAT_vram (cart : Option Cartridge) : (fetchAT cart p).vram = p.vram := rfl
@[simp] theorem fetchAT_palette (cart : Option Cartridge) : (fetchAT cart p).palette = p.palette := rfl
@[simp] theorem fetchAT_oam (cart : Option Cartridge) : (fetchAT cart p).oam = p.oam := rfl
@[simp] theorem fetchAT_oam2 (cart : Option Cartridge) : (fetchAT cart p).oam2 = p.oam2 := rfl
@[simp] theorem fetchAT_scanline (cart : Option Cartridge) : (fetchAT cart p).scanline = p.scanline := rfl
@[simp] theorem fetchAT_dot (cart : Option Cartridge) : (fetchAT cart p).dot = p.dot := rfl
@[simp] theorem fetchAT_frame (cart : Option Cartridge) : (fetchAT cart p).frame = p.frame := rfl
@[simp] theorem fetchAT_bgNextId (cart : Option Cartridge) : (fetchAT cart p).bgNextId = p.bgNextId := rfl
@[simp] theorem fetchAT_bgNextLo (cart : Option Cartridge) : (fetchAT cart p).bgNextLo = p.bgNextLo := rfl
@[simp] theorem fetchAT_bgNextHi (cart : Option Cartridge) : (fetchAT cart p).bgNextHi = p.bgNextHi := rfl
@[simp] theorem fetchAT_bgPatLo (cart : Option Cartridge) : (fetchAT cart p).bgPatLo = p.bgPatLo := rfl
@[simp] theorem fetchAT_bgPatHi (cart : Option Cartridge) : (fetchAT cart p).bgPatHi = p.bgPatHi := rfl
@[simp] theorem fetchAT_bgAttrLo (cart : Option Cartridge) : (fetchAT cart p).bgAttrLo = p.bgAttrLo := rfl
@[simp] theorem fetchAT_bgAttrHi (cart : Option Cartridge) : (fetchAT cart p).bgAttrHi = p.bgAttrHi := rfl
@[simp] theorem fetchAT_spriteCount (cart : Option Cartridge) : (fetchAT cart p).spriteCount = p.spriteCount := rfl
@[simp] theorem fetchAT_sprLo (cart : Option Cartridge) : (fetchAT cart p).sprLo = p.sprLo := rfl
@[simp] theorem fetchAT_sprHi (cart : Option Cartridge) : (fetchAT cart p).sprHi = p.sprHi := rfl
@[simp] theorem fetchAT_sprite0InLine (cart : Option Cartridge) : (fetchAT cart p).sprite0InLine = p.sprite0InLine := rfl
@[simp] theorem fetchAT_frameBuffer (cart : Option Cartridge) : (fetchAT cart p).frameBuffer = p.frameBuffer := rfl

/-! ### fetchPTLo -/

@[simp] theorem fetchPTLo_ctrl (cart : Option Cartridge) : (fetchPTLo cart p).ctrl = p.ctrl := rfl
@[simp] theorem fetchPTLo_mask (cart : Option Cartridge) : (fetchPTLo cart p).mask = p.mask := rfl
@[simp] theorem fetchPTLo_vblank (cart : Option Cartridge) : (fetchPTLo cart p).vblank = p.vblank := rfl
@[simp] theorem fetchPTLo_sprite0Hit (cart : Option Cartridge) : (fetchPTLo cart p).sprite0Hit = p.sprite0Hit := rfl
@[simp] theorem fetchPTLo_spriteOverflow (cart : Option Cartridge) : (fetchPTLo cart p).spriteOverflow = p.spriteOverflow := rfl
@[simp] theorem fetchPTLo_oamAddr (cart : Option Cartridge) : (fetchPTLo cart p).oamAddr = p.oamAddr := rfl
@[simp] theorem fetchPTLo_v (cart : Option Cartridge) : (fetchPTLo cart p).v = p.v := rfl
@[simp] theorem fetchPTLo_t (cart : Option Cartridge) : (fetchPTLo cart p).t = p.t := rfl
@[simp] theorem fetchPTLo_x (cart : Option Cartridge) : (fetchPTLo cart p).x = p.x := rfl
@[simp] theorem fetchPTLo_w (cart : Option Cartridge) : (fetchPTLo cart p).w = p.w := rfl
@[simp] theorem fetchPTLo_dataBuffer (cart : Option Cartridge) : (fetchPTLo cart p).dataBuffer = p.dataBuffer := rfl
@[simp] theorem fetchPTLo_nmiOut (cart : Option Cartridge) : (fetchPTLo cart p).nmiOut = p.nmiOut := rfl
@[simp] theorem fetchPTLo_vram (cart : Option Cartridge) : (fetchPTLo cart p).vram = p.vram := rfl
@[simp] theorem fetchPTLo_palette (cart : Option Cartridge) : (fetchPTLo cart p).palette = p.palette := rfl
@[simp] theorem fetchPTLo_oam (cart : Option Cartridge) : (fetchPTLo cart p).oam = p.oam := rfl
@[simp] theorem fetchPTLo_oam2 (cart : Option Cartridge) : (fetchPTLo cart p).oam2 = p.oam2 := rfl
@[simp] theorem fetchPTLo_scanline (cart : Option Cartridge) : (fetchPTLo cart p).scanline = p.scanline := rfl
@[simp] theorem fetchPTLo_dot (cart : Option Cartridge) : (fetchPTLo cart p).dot = p.dot := rfl
@[simp] theorem fetchPTLo_frame (cart : Option Cartridge) : (fetchPTLo cart p).frame = p.frame := rfl
@[simp] theorem fetchPTLo_bgNextId (cart : Option Cartridge) : (fetchPTLo cart p).bgNextId = p.bgNextId := rfl
@[simp] theorem fetchPTLo_bgNextAttr (cart : Option Cartridge) : (fetchPTLo cart p).bgNextAttr = p.bgNextAttr := rfl
@[simp] theorem fetchPTLo_bgNextHi (cart : Option Cartridge) : (fetchPTLo cart p).bgNextHi = p.bgNextHi := rfl
@[simp] theorem fetchPTLo_bgPatLo (cart : Option Cartridge) : (fetchPTLo cart p).bgPatLo = p.bgPatLo := rfl
@[simp] theorem fetchPTLo_bgPatHi (cart : Option Cartridge) : (fetchPTLo cart p).bgPatHi = p.bgPatHi := rfl
@[simp] theorem fetchPTLo_bgAttrLo (cart : Option Cartridge) : (fetchPTLo cart p).bgAttrLo = p.bgAttrLo := rfl
@[simp] theorem fetchPTLo_bgAttrHi (cart : Option Cartridge) : (fetchPTLo cart p).bgAttrHi = p.bgAttrHi := rfl
@[simp] theorem fetchPTLo_spriteCount (cart : Option Cartridge) : (fetchPTLo cart p).spriteCount = p.spriteCount := rfl
@[simp] theorem fetchPTLo_sprLo (cart : Option Cartridge) : (fetchPTLo cart p).sprLo = p.sprLo := rfl
@[simp] theorem fetchPTLo_sprHi (cart : Option Cartridge) : (fetchPTLo cart p).sprHi = p.sprHi := rfl
@[simp] theorem fetchPTLo_sprite0InLine (cart : Option Cartridge) : (fetchPTLo cart p).sprite0InLine = p.sprite0InLine := rfl
@[simp] theorem fetchPTLo_frameBuffer (cart : Option Cartridge) : (fetchPTLo cart p).frameBuffer = p.frameBuffer := rfl

/-! ### fetchPTHi -/

@[simp] theorem fetchPTHi_ctrl (cart : Option Cartridge) : (fetchPTHi cart p).ctrl = p.ctrl := rfl
@[simp] theorem fetchPTHi_mask (cart : Option Cartridge) : (fetchPTHi cart p).mask = p.mask := rfl
@[simp] theorem fetchPTHi_vblank (cart : Option Cartridge) : (fetchPTHi cart p).vblank = p.vblank := rfl
@[simp] theorem fetchPTHi_sprite0Hit (cart : Option Cartridge) : (fetchPTHi cart p).sprite0Hit = p.sprite0Hit := rfl
@[simp] theorem fetchPTHi_spriteOverflow (cart : Option Cartridge) : (fetchPTHi cart p).spriteOverflow = p.spriteOverflow := rfl
@[simp] theorem fetchPTHi_oamAddr (cart : Option Cartridge) : (fetchPTHi cart p).oamAddr = p.oamAddr := rfl
@[simp] theorem fetchPTHi_v (cart : Option Cartridge) : (fetchPTHi cart p).v = p.v := rfl
@[simp] theorem fetchPTHi_t (cart : Option Cartridge) : (fetchPTHi cart p).t = p.t := rfl
@[simp] theorem fetchPTHi_x (cart : Option Cartridge) : (fetchPTHi cart p).x = p.x := rfl
@[simp] theorem fetchPTHi_w (cart : Option Cartridge) : (fetchPTHi cart p).w = p.w := rfl
@[simp] theorem fetchPTHi_dataBuffer (cart : Option Cartridge) : (fetchPTHi cart p).dataBuffer = p.dataBuffer := rfl
@[simp] theorem fetchPTHi_nmiOut (cart : Option Cartridge) : (fetchPTHi cart p).nmiOut = p.nmiOut := rfl
@[simp] theorem fetchPTHi_vram (cart : Option Cartridge) : (fetchPTHi cart p).vram = p.vram := rfl
@[simp] theorem fetchPTHi_palette (cart : Option Cartridge) : (fetchPTHi cart p).palette = p.palette := rfl
@[simp] theorem fetchPTHi_oam (cart : Option Cartridge) : (fetchPTHi cart p).oam = p.oam := rfl
@[simp] theorem fetchPTHi_oam2 (cart : Option Cartridge) : (fetchPTHi cart p).oam2 = p.oam2 := rfl
@[simp] theorem fetchPTHi_scanline (cart : Option Cartridge) : (fetchPTHi cart p).scanline = p.scanline := rfl
@[simp] theorem fetchPTHi_dot (cart : Option Cartridge) : (fetchPTHi cart p).dot = p.dot := rfl
@[simp] theorem fetchPTHi_frame (cart : Option Cartridge) : (fetchPTHi cart p).frame = p.frame := rfl
@[simp] theorem fetchPTHi_bgNextId (cart : Option Cartridge) : (fetchPTHi cart p).bgNextId = p.bgNextId := rfl
@[simp] theorem fetchPTHi_bgNextAttr (cart : Option Cartridge) : (fetchPTHi cart p).bgNextAttr = p.bgNextAttr := rfl
@[simp] theorem fetchPTHi_bgNextLo (cart : Option Cartridge) : (fetchPTHi cart p).bgNextLo = p.bgNextLo := rfl
@[simp] theorem fetchPTHi_bgPatLo (cart : Option Cartridge) : (fetchPTHi cart p).bgPatLo = p.bgPatLo := rfl
@[simp] theorem fetchPTHi_bgPatHi (cart : Option Cartridge) : (fetchPTHi cart p).bgPatHi = p.bgPatHi := rfl
@[simp] theorem fetchPTHi_bgAttrLo (cart : Option Cartridge) : (fetchPTHi cart p).bgAttrLo = p.bgAttrLo := rfl
@[simp] theorem fetchPTHi_bgAttrHi (cart : Option Cartridge) : (fetchPTHi cart p).bgAttrHi = p.bgAttrHi := rfl
@[simp] theorem fetchPTHi_spriteCount (cart : Option Cartridge) : (fetchPTHi cart p).spriteCount = p.spriteCount := rfl
@[simp] theorem fetchPTHi_sprLo (cart : Option Cartridge) : (fetchPTHi cart p).sprLo = p.sprLo := rfl
@[simp] theorem fetchPTHi_sprHi (cart : Option Cartridge) : (fetchPTHi cart p).sprHi = p.sprHi := rfl
@[simp] theorem fetchPTHi_sprite0InLine (cart : Option Cartridge) : (fetchPTHi cart p).sprite0InLine = p.sprite0InLine := rfl
@[simp] theorem fetchPTHi_frameBuffer (cart : Option Cartridge) : (fetchPTHi cart p).frameBuffer = p.frameBuffer := rfl

/-! ### incX -/

@[simp] theorem incX_ctrl : (incX p).ctrl = p.ctrl := rfl
@[simp] theorem incX_mask : (incX p).mask = p.mask := rfl
@[simp] theorem incX_vblank : (incX p).vblank = p.vblank := rfl
@[simp] theorem incX_sprite0Hit : (incX p).sprite0Hit = p.sprite0Hit := rfl
@[simp] theorem incX_spriteOverflow : (incX p).spriteOverflow = p.spriteOverflow := rfl
@[simp] theorem incX_oamAddr : (incX p).oamAddr = p.oamAddr := rfl
@[simp] theorem incX_t : (incX p).t = p.t := rfl
@[simp] theorem incX_x : (incX p).x = p.x := rfl
@[simp] theorem incX_w : (incX p).w = p.w := rfl
@[simp] theorem incX_dataBuffer : (incX p).dataBuffer = p.dataBuffer := rfl
@[simp] theorem incX_nmiOut : (incX p).nmiOut = p.nmiOut := rfl
@[simp] theorem incX_vram : (incX p).vram = p.vram := rfl
@[simp] theorem incX_palette : (incX p).palette = p.palette := rfl
@[simp] theorem incX_oam : (incX p).oam = p.oam := rfl
@[simp] theorem incX_oam2 : (incX p).oam2 = p.oam2 := rfl
@[simp] theorem incX_scanline : (incX p).scanline = p.scanline := rfl
@[simp] theorem incX_dot : (incX p).dot = p.dot := rfl
@[simp] theorem incX_frame : (incX p).frame = p.frame := rfl
@[simp] theorem incX_bgNextId : (incX p).bgNextId = p.bgNextId := rfl
@[simp] theorem incX_bgNextAttr : (incX p).bgNextAttr = p.bgNextAttr := rfl
@[simp] theorem incX_bgNextLo : (incX p).bgNextLo = p.bgNextLo := rfl
@[simp] theorem incX_bgNextHi : (incX p).bgNextHi = p.bgNextHi := rfl
@[simp] theorem incX_bgPatLo : (incX p).bgPatLo = p.bgPatLo := rfl
@[simp] theorem incX_bgPatHi : (incX p).bgPatHi = p.bgPatHi := rfl
@[simp] theorem incX_bgAttrLo : (incX p).bgAttrLo = p.bgAttrLo := rfl
@[simp] theorem incX_bgAttrHi : (incX p).bgAttrHi = p.bgAttrHi := rfl
@[simp] theorem incX_spriteCount : (incX p).spriteCount = p.spriteCount := rfl
@[simp] theorem incX_sprLo : (incX p).sprLo = p.sprLo := rfl
@[simp] theorem incX_sprHi : (incX p).sprHi = p.sprHi := rfl
@[simp] theorem incX_sprite0InLine : (incX p).sprite0InLine = p.sprite0InLine := rfl
@[simp] theorem incX_frameBuffer : (incX p).frameBuffer = p.frameBuffer := rfl

/-! ### incY -/

@[simp] theorem incY_ctrl : (incY p).ctrl = p.ctrl := rfl
@[simp] theorem incY_mask : (incY p).mask = p.mask := rfl
@[simp] theorem incY_vblank : (incY p).vblank = p.vblank := rfl
@[simp] theorem incY_sprite0Hit : (incY p).sprite0Hit = p.sprite0Hit := rfl
@[simp] theorem incY_spriteOverflow : (incY p).spriteOverflow = p.spriteOverflow := rfl
@[simp] theorem incY_oamAddr : (incY p).oamAddr = p.oamAddr := rfl
@[simp] theorem incY_t : (incY p).t = p.t := rfl
@[simp] theorem incY_x : (incY p).x = p.x := rfl
@[simp] theorem incY_w : (incY p).w = p.w := rfl
@[simp] theorem incY_dataBuffer : (incY p).dataBuffer = p.dataBuffer := rfl
@[simp] theorem incY_nmiOut : (incY p).nmiOut = p.nmiOut := rfl
@[simp] theorem incY_vram : (incY p).vram = p.vram := rfl
@[simp] theorem incY_palette : (incY p).palette = p.palette := rfl
@[simp] theorem incY_oam : (incY p).oam = p.oam := rfl
@[simp] theorem incY_oam2 : (incY p).oam2 = p.oam2 := rfl
@[simp] theorem incY_scanline : (incY p).scanline = p.scanline := rfl
@[simp] theorem incY_dot : (incY p).dot = p.dot := rfl
@[simp] theorem incY_frame : (incY p).frame = p.frame := rfl
@[simp] theorem incY_bgNextId : (incY p).bgNextId = p.bgNextId := rfl
@[simp] theorem incY_bgNextAttr : (incY p).bgNextAttr = p.bgNextAttr := rfl
@[simp] theorem incY_bgNextLo : (incY p).bgNextLo = p.bgNextLo := rfl
@[simp] theorem incY_bgNextHi : (incY p).bgNextHi = p.bgNextHi := rfl
@[simp] theorem incY_bgPatLo : (incY p).bgPatLo = p.bgPatLo := rfl
@[simp] theorem incY_bgPatHi : (incY p).bgPatHi = p.bgPatHi := rfl
@[simp] theorem incY_bgAttrLo : (incY p).bgAttrLo = p.bgAttrLo := rfl
@[simp] theorem incY_bgAttrHi : (incY p).bgAttrHi = p.bgAttrHi := rfl
@[simp] theorem incY_spriteCount : (incY p).spriteCount = p.spriteCount := rfl
@[simp] theorem incY_sprLo : (incY p).sprLo = p.sprLo := rfl
@[simp] theorem incY_sprHi : (incY p).sprHi = p.sprHi := rfl
@[simp] theorem incY_sprite0InLine : (incY p).sprite0InLine = p.sprite0InLine := rfl
@[simp] theorem incY_frameBuffer : (incY p).frameBuffer = p.frameBuffer := rfl

/-! ### copyX -/

@[simp] theorem copyX_ctrl : (copyX p).ctrl = p.ctrl := rfl
@[simp] theorem copyX_mask : (copyX p).mask = p.mask := rfl
@[simp] theorem copyX_vblank : (copyX p).vblank = p.vblank := rfl
@[simp] theorem copyX_sprite0Hit : (copyX p).sprite0Hit = p.sprite0Hit := rfl
@[simp] theorem copyX_spriteOverflow : (copyX p).spriteOverflow = p.spriteOverflow := rfl
@[simp] theorem copyX_oamAddr : (copyX p).oamAddr = p.oamAddr := rfl
@[simp] theorem copyX_t : (copyX p).t = p.t := rfl
@[simp] theorem copyX_x : (copyX p).x = p.x := rfl
@[simp] theorem copyX_w : (copyX p).w = p.w := rfl
@[simp] theorem copyX_dataBuffer : (copyX p).dataBuffer = p.dataBuffer := rfl
@[simp] theorem copyX_nmiOut : (copyX p).nmiOut = p.nmiOut := rfl
@[simp] theorem copyX_vram : (copyX p).vram = p.vram := rfl
@[simp] theorem copyX_palette : (copyX p).palette = p.palette := rfl
@[simp] theorem copyX_oam : (copyX p).oam = p.oam := rfl
@[simp] theorem copyX_oam2 : (copyX p).oam2 = p.oam2 := rfl
@[simp] theorem copyX_scanline : (copyX p).scanline = p.scanline := rfl
@[simp] theorem copyX_dot : (copyX p).dot = p.dot := rfl
@[simp] theorem copyX_frame : (copyX p).frame = p.frame := rfl
@[simp] theorem copyX_bgNextId : (copyX p).bgNextId = p.bgNextId := rfl
@[simp] theorem copyX_bgNextAttr : (copyX p).bgNextAttr = p.bgNextAttr := rfl
@[simp] theorem copyX_bgNextLo : (copyX p).bgNextLo = p.bgNextLo := rfl
@[simp] theorem copyX_bgNextHi : (copyX p).bgNextHi = p.bgNextHi := rfl
@[simp] theorem copyX_bgPatLo : (copyX p).bgPatLo = p.bgPatLo := rfl
@[simp] theorem copyX_bgPatHi : (copyX p).bgPatHi = p.bgPatHi := rfl
@[simp] theorem copyX_bgAttrLo : (copyX p).bgAttrLo = p.bgAttrLo := rfl
@[simp] theorem copyX_bgAttrHi : (copyX p).bgAttrHi = p.bgAttrHi := rfl
@[simp] theorem copyX_spriteCount : (copyX p).spriteCount = p.spriteCount := rfl
@[simp] theorem copyX_sprLo : (copyX p).sprLo = p.sprLo := rfl
@[simp] theorem copyX_sprHi : (copyX p).sprHi = p.sprHi := rfl
@[simp] theorem copyX_sprite0InLine : (copyX p).sprite0InLine = p.sprite0InLine := rfl
@[simp] theorem copyX_frameBuffer : (copyX p).frameBuffer = p.frameBuffer := rfl

/-! ### copyY -/

@[simp] theorem copyY_ctrl : (copyY p).ctrl = p.ctrl := rfl
@[simp] theorem copyY_mask : (copyY p).mask = p.mask := rfl
@[simp] theorem copyY_vblank : (copyY p).vblank = p.vblank := rfl
@[simp] theorem copyY_sprite0Hit : (copyY p).sprite0Hit = p.sprite0Hit := rfl
@[simp] theorem copyY_spriteOverflow : (copyY p).spriteOverflow = p.spriteOverflow := rfl
@[simp] theorem copyY_oamAddr : (copyY p).oamAddr = p.oamAddr := rfl
@[simp] theorem copyY_t : (copyY p).t = p.t := rfl
@[simp] theorem copyY_x : (copyY p).x = p.x := rfl
@[simp] theorem copyY_w : (copyY p).w = p.w := rfl
@[simp] theorem copyY_dataBuffer : (copyY p).dataBuffer = p.dataBuffer := rfl
@[simp] theorem copyY_nmiOut : (copyY p).nmiOut = p.nmiOut := rfl
@[simp] theorem copyY_vram : (copyY p).vram = p.vram := rfl
@[simp] theorem copyY_palette : (copyY p).palette = p.palette := rfl
@[simp] theorem copyY_oam : (copyY p).oam = p.oam := rfl
@[simp] theorem copyY_oam2 : (copyY p).oam2 = p.oam2 := rfl
@[simp] theorem copyY_scanline : (copyY p).scanline = p.scanline := rfl
@[simp] theorem copyY_dot : (copyY p).dot = p.dot := rfl
@[simp] theorem copyY_frame : (copyY p).frame = p.frame := rfl
@[simp] theorem copyY_bgNextId : (copyY p).bgNextId = p.bgNextId := rfl
@[simp] theorem copyY_bgNextAttr : (copyY p).bgNextAttr = p.bgNextAttr := rfl
@[simp] theorem copyY_bgNextLo : (copyY p).bgNextLo = p.bgNextLo := rfl
@[simp] theorem copyY_bgNextHi : (copyY p).bgNextHi = p.bgNextHi := rfl
@[simp] theorem copyY_bgPatLo : (copyY p).bgPatLo = p.bgPatLo := rfl
@[simp] theorem copyY_bgPatHi : (copyY p).bgPatHi = p.bgPatHi := rfl
@[simp] theorem copyY_bgAttrLo : (copyY p).bgAttrLo = p.bgAttrLo := rfl
@[simp] theorem copyY_bgAttrHi : (copyY p).bgAttrHi = p.bgAttrHi := rfl
@[simp] theorem copyY_spriteCount : (copyY p).spriteCount = p.spriteCount := rfl
@[simp] theorem copyY_sprLo : (copyY p).sprLo = p.sprLo := rfl
@[simp] theorem copyY_sprHi : (copyY p).sprHi = p.sprHi := rfl
@[simp] theorem copyY_sprite0InLine : (copyY p).sprite0InLine = p.sprite0InLine := rfl
@[simp] theorem copyY_frameBuffer : (copyY p).frameBuffer = p.frameBuffer := rfl

/-! ### evaluateSprites -/

@[simp] theorem evaluateSprites_ctrl : (evaluateSprites p).ctrl = p.ctrl := rfl
@[simp] theorem evaluateSprites_mask : (evaluateSprites p).mask = p.mask := rfl
@[simp] theorem evaluateSprites_vblank : (evaluateSprites p).vblank = p.vblank := rfl
@[simp] theorem evaluateSprites_sprite0Hit : (evaluateSprites p).sprite0Hit = p.sprite0Hit := rfl
@[simp] theorem evaluateSprites_oamAddr : (evaluateSprites p).oamAddr = p.oamAddr := rfl
@[simp] theorem evaluateSprites_v : (evaluateSprites p).v = p.v := rfl
@[simp] theorem evaluateSprites_t : (evaluateSprites p).t = p.t := rfl
@[simp] theorem evaluateSprites_x : (evaluateSprites p).x = p.x := rfl
@[simp] theorem evaluateSprites_w : (evaluateSprites p).w = p.w := rfl
@[simp] theorem evaluateSprites_dataBuffer : (evaluateSprites p).dataBuffer = p.dataBuffer := rfl
@[simp] theorem evaluateSprites_nmiOut : (evaluateSprites p).nmiOut = p.nmiOut := rfl
@[simp] theorem evaluateSprites_vram : (evaluateSprites p).vram = p.vram := rfl
@[simp] theorem evaluateSprites_palette : (evaluateSprites p).palette = p.palette := rfl
@[simp] theorem evaluateSprites_oam : (evaluateSprites p).oam = p.oam := rfl
@[simp] theorem evaluateSprites_scanline : (evaluateSprites p).scanline = p.scanline := rfl
@[simp] theorem evaluateSprites_dot : (evaluateSprites p).dot = p.dot := rfl
@[simp] theorem evaluateSprites_frame : (evaluateSprites p).frame = p.frame := rfl
@[simp] theorem evaluateSprites_bgNextId : (evaluateSprites p).bgNextId = p.bgNextId := rfl
@[simp] theorem evaluateSprites_bgNextAttr : (evaluateSprites p).bgNextAttr = p.bgNextAttr := rfl
@[simp] theorem evaluateSprites_bgNextLo : (evaluateSprites p).bgNextLo = p.bgNextLo := rfl
@[simp] theorem evaluateSprites_bgNextHi : (evaluateSprites p).bgNextHi = p.bgNextHi := rfl
@[simp] theorem evaluateSprites_bgPatLo : (evaluateSprites p).bgPatLo = p.bgPatLo := rfl
@[simp] theorem evaluateSprites_bgPatHi : (evaluateSprites p).bgPatHi = p.bgPatHi := rfl
@[simp] theorem evaluateSprites_bgAttrLo : (evaluateSprites p).bgAttrLo = p.bgAttrLo := rfl
@[simp] theorem evaluateSprites_bgAttrHi : (evaluateSprites p).bgAttrHi = p.bgAttrHi := rfl
@[simp] theorem evaluateSprites_sprLo : (evaluateSprites p).sprLo = p.sprLo := rfl
@[simp] theorem evaluateSprites_sprHi : (evaluateSprites p).sprHi = p.sprHi := rfl
@[simp] theorem evaluateSprites_frameBuffer : (evaluateSprites p).frameBuffer = p.frameBuffer := rfl

/-! ### fetchSprites -/

@[simp] theorem fetchSprites_ctrl (cart : Option Cartridge) : (fetchSprites cart p).ctrl = p.ctrl := rfl
@[simp] theorem fetchSprites_mask (cart : Option Cartridge) : (fetchSprites cart p).mask = p.mask := rfl
@[simp] theorem fetchSprites_vblank (cart : Option Cartridge) : (fetchSprites cart p).vblank = p.vblank := rfl
@[simp] theorem fetchSprites_sprite0Hit (cart : Option Cartridge) : (fetchSprites cart p).sprite0Hit = p.sprite0Hit := rfl
@[simp] theorem fetchSprites_spriteOverflow (cart : Option Cartridge) : (fetchSprites cart p).spriteOverflow = p.spriteOverflow := rfl
@[simp] theorem fetchSprites_oamAddr (cart : Option Cartridge) : (fetchSprites cart p).oamAddr = p.oamAddr := rfl
@[simp] theorem fetchSprites_v (cart : Option Cartridge) : (fetchSprites cart p).v = p.v := rfl
@[simp] theorem fetchSprites_t (cart : Option Cartridge) : (fetchSprites cart p).t = p.t := rfl
@[simp] theorem fetchSprites_x (cart : Option Cartridge) : (fetchSprites cart p).x = p.x := rfl
@[simp] theorem fetchSprites_w (cart : Option Cartridge) : (fetchSprites cart p).w = p.w := rfl
@[simp] theorem fetchSprites_dataBuffer (cart : Option Cartridge) : (fetchSprites cart p).dataBuffer = p.dataBuffer := rfl
@[simp] theorem fetchSprites_nmiOut (cart : Option Cartridge) : (fetchSprites cart p).nmiOut = p.nmiOut := rfl
@[simp] theorem fetchSprites_vram (cart : Option Cartridge) : (fetchSprites cart p).vram = p.vram := rfl
@[simp] theorem fetchSprites_palette (cart : Option Cartridge) : (fetchSprites cart p).palette = p.palette := rfl
@[simp] theorem fetchSprites_oam (cart : Option Cartridge) : (fetchSprites cart p).oam = p.oam := rfl
@[simp] theorem fetchSprites_oam2 (cart : Option Cartridge) : (fetchSprites cart p).oam2 = p.oam2 := rfl
@[simp] theorem fetchSprites_scanline (cart : Option Cartridge) : (fetchSprites cart p).scanline = p.scanline := rfl
@[simp] theorem fetchSprites_dot (cart : Option Cartridge) : (fetchSprites cart p).dot = p.dot := rfl
@[simp] theorem fetchSprites_frame (cart : Option Cartridge) : (fetchSprites cart p).frame = p.frame := rfl
@[simp] theorem fetchSprites_bgNextId (cart : Option Cartridge) : (fetchSprites cart p).bgNextId = p.bgNextId := rfl
@[simp] theorem fetchSprites_bgNextAttr (cart : Option Cartridge) : (fetchSprites cart p).bgNextAttr = p.bgNextAttr := rfl
@[simp] theorem fetchSprites_bgNextLo (cart : Option Cartridge) : (fetchSprites cart p).bgNextLo = p.bgNextLo := rfl
@[simp] theorem fetchSprites_bgNextHi (cart : Option Cartridge) : (fetchSprites cart p).bgNextHi = p.bgNextHi := rfl
@[simp] theorem fetchSprites_bgPatLo (cart : Option Cartridge) : (fetchSprites cart p).bgPatLo = p.bgPatLo := rfl
@[simp] theorem fetchSprites_bgPatHi (cart : Option Cartridge) : (fetchSprites cart p).bgPatHi = p.bgPatHi := rfl
@[simp] theorem fetchSprites_bgAttrLo (cart : Option Cartridge) : (fetchSprites cart p).bgAttrLo = p.bgAttrLo := rfl
@[simp] theorem fetchSprites_bgAttrHi (cart : Option Cartridge) : (fetchSprites cart p).bgAttrHi = p.bgAttrHi := rfl
@[simp] theorem fetchSprites_spriteCount (cart : Option Cartridge) : (fetchSprites cart p).spriteCount = p.spriteCount := rfl
@[simp] theorem fetchSprites_sprite0InLine (cart : Option Cartridge) : (fetchSprites cart p).sprite0InLine = p.sprite0InLine := rfl
@[simp] theorem fetchSprites_frameBuffer (cart : Option Cartridge) : (fetchSprites cart p).frameBuffer = p.frameBuffer := rfl

/-! ### composePixel -/

@[simp] theorem composePixel_ctrl (cart : Option Cartridge) (s d : Nat) : (composePixel cart s d p).ctrl = p.ctrl := rfl
@[simp] theorem composePixel_mask (cart : Option Cartridge) (s d : Nat) : (composePixel cart s d p).mask = p.mask := rfl
@[simp] theorem composePixel_vblank (cart : Option Cartridge) (s d : Nat) : (composePixel cart s d p).vblank = p.vblank := rfl
@[simp] theorem composePixel_spriteOverflow (cart : Option Cartridge) (s d : Nat) : (composePixel cart s d p).spriteOverflow = p.spriteOverflow := rfl
@[simp] theorem composePixel_oamAddr (cart : Option Cartridge) (s d : Nat) : (composePixel cart s d p).oamAddr = p.oamAddr := rfl
@[simp] theorem composePixel_v (cart : Option Cartridge) (s d : Nat) : (composePixel cart s d p).v = p.v := rfl
@[simp] theorem composePixel_t (cart : Option Cartridge) (s d : Nat) : (composePixel cart s d p).t = p.t := rfl
@[simp] theorem composePixel_x (cart : Option Cartridge) (s d : Nat) : (composePixel cart s d p).x = p.x := rfl
@[simp] theorem composePixel_w (cart : Option Cartridge) (s d : Nat) : (composePixel cart s d p).w = p.w := rfl
@[simp] theorem composePixel_dataBuffer (cart : Option Cartridge) (s d : Nat) : (composePixel cart s d p).dataBuffer = p.dataBuffer := rfl
@[simp] theorem composePixel_nmiOut (cart : Option Cartridge) (s d : Nat) : (composePixel cart s d p).nmiOut = p.nmiOut := rfl
@[simp] theorem composePixel_vram (cart : Option Cartridge) (s d : Nat) : (composePixel cart s d p).vram = p.vram := rfl
@[simp] theorem composePixel_palette (cart : Option Cartridge) (s d : Nat) : (composePixel cart s d p).palette = p.palette := rfl
@[simp] theorem composePixel_oam (cart : Option Cartridge) (s d : Nat) : (composePixel cart s d p).oam = p.oam := rfl
@[simp] theorem composePixel_oam2 (cart : Option Cartridge) (s d : Nat) : (composePixel cart s d p).oam2 = p.oam2 := rfl
@[simp] theorem composePixel_scanline (cart : Option Cartridge) (s d : Nat) : (composePixel cart s d p).scanline = p.scanline := rfl
@[simp] theorem composePixel_dot (cart : Option Cartridge) (s d : Nat) : (composePixel cart s d p).dot = p.dot := rfl
@[simp] theorem composePixel_frame (cart : Option Cartridge) (s d : Nat) : (composePixel cart s d p).frame = p.frame := rfl
@[simp] theorem composePixel_bgNextId (cart : Option Cartridge) (s d : Nat) : (composePixel cart s d p).bgNextId = p.bgNextId := rfl
@[simp] theorem composePixel_bgNextAttr (cart : Option Cartridge) (s d : Nat) : (composePixel cart s d p).bgNextAttr = p.bgNextAttr := rfl
@[simp] theorem composePixel_bgNextLo (cart : Option Cartridge) (s d : Nat) : (composePixel cart s d p).bgNextLo = p.bgNextLo := rfl
@[simp] theorem composePixel_bgNextHi (cart : Option Cartridge) (s d : Nat) : (composePixel cart s d p).bgNextHi = p.bgNextHi := rfl
@[simp] theorem composePixel_bgPatLo (cart : Option Cartridge) (s d : Nat) : (composePixel cart s d p).bgPatLo = p.bgPatLo := rfl
@[simp] theorem composePixel_bgPatHi (cart : Option Cartridge) (s d : Nat) : (composePixel cart s d p).bgPatHi = p.bgPatHi := rfl
@[simp] theorem composePixel_bgAttrLo (cart : Option Cartridge) (s d : Nat) : (composePixel cart s d p).bgAttrLo = p.bgAttrLo := rfl
@[simp] theorem composePixel_bgAttrHi (cart : Option Cartridge) (s d : Nat) : (composePixel cart s d p).bgAttrHi = p.bgAttrHi := rfl
@[simp] theorem composePixel_spriteCount (cart : Option Cartridge) (s d : Nat) : (composePixel cart s d p).spriteCount = p.spriteCount := rfl
@[simp] theorem composePixel_sprLo (cart : Option Cartridge) (s d : Nat) : (composePixel cart s d p).sprLo = p.sprLo := rfl
@[simp] theorem composePixel_sprHi (cart : Option Cartridge) (s d : Nat) : (composePixel cart s d p).sprHi = p.sprHi := rfl
@[simp] theorem composePixel_sprite0InLine (cart : Option Cartridge) (s d : Nat) : (composePixel cart s d p).sprite0InLine = p.sprite0InLine := rfl

/-! ### startVBlank -/

@[simp] theorem startVBlank_ctrl : (startVBlank p).ctrl = p.ctrl := rfl
@[simp] theorem startVBlank_mask : (startVBlank p).mask = p.mask := rfl
@[simp] theorem startVBlank_sprite0Hit : (startVBlank p).sprite0Hit = p.sprite0Hit := rfl
@[simp] theorem startVBlank_spriteOverflow : (startVBlank p).spriteOverflow = p.spriteOverflow := rfl
@[simp] theorem startVBlank_oamAddr : (startVBlank p).oamAddr = p.oamAddr := rfl
@[simp] theorem startVBlank_v : (startVBlank p).v = p.v := rfl
@[simp] theorem startVBlank_t : (startVBlank p).t = p.t := rfl
@[simp] theorem startVBlank_x : (startVBlank p).x = p.x := rfl
@[simp] theorem startVBlank_w : (startVBlank p).w = p.w := rfl
@[simp] theorem startVBlank_dataBuffer : (startVBlank p).dataBuffer = p.dataBuffer := rfl
@[simp] theorem startVBlank_vram : (startVBlank p).vram = p.vram := rfl
@[simp] theorem startVBlank_palette : (startVBlank p).palette = p.palette := rfl
@[simp] theorem startVBlank_oam : (startVBlank p).oam = p.oam := rfl
@[simp] theorem startVBlank_oam2 : (startVBlank p).oam2 = p.oam2 := rfl
@[simp] theorem startVBlank_scanline : (startVBlank p).scanline = p.scanline := rfl
@[simp] theorem startVBlank_dot : (startVBlank p).dot = p.dot := rfl
@[simp] theorem startVBlank_frame : (startVBlank p).frame = p.frame := rfl
@[simp] theorem startVBlank_bgNextId : (startVBlank p).bgNextId = p.bgNextId := rfl
@[simp] theorem startVBlank_bgNextAttr : (startVBlank p).bgNextAttr = p.bgNextAttr := rfl
@[simp] theorem startVBlank_bgNextLo : (startVBlank p).bgNextLo = p.bgNextLo := rfl
@[simp] theorem startVBlank_bgNextHi : (startVBlank p).bgNextHi = p.bgNextHi := rfl
@[simp] theorem startVBlank_bgPatLo : (startVBlank p).bgPatLo = p.bgPatLo := rfl
@[simp] theorem startVBlank_bgPatHi : (startVBlank p).bgPatHi = p.bgPatHi := rfl
@[simp] theorem startVBlank_bgAttrLo : (startVBlank p).bgAttrLo = p.bgAttrLo := rfl
@[simp] theorem startVBlank_bgAttrHi : (startVBlank p).bgAttrHi = p.bgAttrHi := rfl
@[simp] theorem startVBlank_spriteCount : (startVBlank p).spriteCount = p.spriteCount := rfl
@[simp] theorem startVBlank_sprLo : (startVBlank p).sprLo = p.sprLo := rfl
@[simp] theorem startVBlank_sprHi : (startVBlank p).sprHi = p.sprHi := rfl
@[simp] theorem startVBlank_sprite0InLine : (startVBlank p).sprite0InLine = p.sprite0InLine := rfl
@[simp] theorem startVBlank_frameBuffer : (startVBlank p).frameBuffer = p.frameBuffer := rfl

/-! ### preRenderClear -/

@[simp] theorem preRenderClear_ctrl : (preRenderClear p).ctrl = p.ctrl := rfl
@[simp] theorem preRenderClear_mask : (preRenderClear p).mask = p.mask := rfl
@[simp] theorem preRenderClear_oamAddr : (preRenderClear p).oamAddr = p.oamAddr := rfl
@[simp] theorem preRenderClear_v : (preRenderClear p).v = p.v := rfl
@[simp] theorem preRenderClear_t : (preRenderClear p).t = p.t := rfl
@[simp] theorem preRenderClear_x : (preRenderClear p).x = p.x := rfl
@[simp] theorem preRenderClear_w : (preRenderClear p).w = p.w := rfl
@[simp] theorem preRenderClear_dataBuffer : (preRenderClear p).dataBuffer = p.dataBuffer := rfl
@[simp] theorem preRenderClear_nmiOut : (preRenderClear p).nmiOut = p.nmiOut := rfl
@[simp] theorem preRenderClear_vram : (preRenderClear p).vram = p.vram := rfl
@[simp] theorem preRenderClear_palette : (preRenderClear p).palette = p.palette := rfl
@[simp] theorem preRenderClear_oam : (preRenderClear p).oam = p.oam := rfl
@[simp] theorem preRenderClear_oam2 : (preRenderClear p).oam2 = p.oam2 := rfl
@[simp] theorem preRenderClear_scanline : (preRenderClear p).scanline = p.scanline := rfl
@[simp] theorem preRenderClear_dot : (preRenderClear p).dot = p.dot := rfl
@[simp] theorem preRenderClear_frame : (preRenderClear p).frame = p.frame := rfl
@[simp] theorem preRenderClear_bgNextId : (preRenderClear p).bgNextId = p.bgNextId := rfl
@[simp] theorem preRenderClear_bgNextAttr : (preRenderClear p).bgNextAttr = p.bgNextAttr := rfl
@[simp] theorem preRenderClear_bgNextLo : (preRenderClear p).bgNextLo = p.bgNextLo := rfl
@[simp] theorem preRenderClear_bgNextHi : (preRenderClear p).bgNextHi = p.bgNextHi := rfl
@[simp] theorem preRenderClear_bgPatLo : (preRenderClear p).bgPatLo = p.bgPatLo := rfl
@[simp] theorem preRenderClear_bgPatHi : (preRenderClear p).bgPatHi = p.bgPatHi := rfl
@[simp] theorem preRenderClear_bgAttrLo : (preRenderClear p).bgAttrLo = p.bgAttrLo := rfl
@[simp] theorem preRenderClear_bgAttrHi : (preRenderClear p).bgAttrHi = p.bgAttrHi := rfl
@[simp] theorem preRenderClear_spriteCount : (preRenderClear p).spriteCount = p.spriteCount := rfl
@[simp] theorem preRenderClear_sprite0InLine : (preRenderClear p).sprite0InLine = p.sprite0InLine := rfl
@[simp] theorem preRenderClear_frameBuffer : (preRenderClear p).frameBuffer = p.frameBuffer := rfl

/-! ### bgStep -/

@[simp] theorem bgStep_ctrl (cart : Option Cartridge) (d : Nat) : (bgStep cart d p).ctrl = p.ctrl := by
  unfold bgStep; split <;> simp
@[simp] theorem bgStep_mask (cart : Option Cartridge) (d : Nat) : (bgStep cart d p).mask = p.mask := by
  unfold bgStep; split <;> simp
@[simp] theorem bgStep_vblank (cart : Option Cartridge) (d : Nat) : (bgStep cart d p).vblank = p.vblank := by
  unfold bgStep; split <;> simp
@[simp] theorem bgStep_sprite0Hit (cart : Option Cartridge) (d : Nat) : (bgStep cart d p).sprite0Hit = p.sprite0Hit := by
  unfold bgStep; split <;> simp
@[simp] theorem bgStep_spriteOverflow (cart : Option Cartridge) (d : Nat) : (bgStep cart d p).spriteOverflow = p.spriteOverflow := by
  unfold bgStep; split <;> simp
@[simp] theorem bgStep_oamAddr (cart : Option Cartridge) (d : Nat) : (bgStep cart d p).oamAddr = p.oamAddr := by
  unfold bgStep; split <;> simp
@[simp] theorem bgStep_t (cart : Option Cartridge) (d : Nat) : (bgStep cart d p).t = p.t := by
  unfold bgStep; split <;> simp
@[simp] theorem bgStep_x (cart : Option Cartridge) (d : Nat) : (bgStep cart d p).x = p.x := by
  unfold bgStep; split <;> simp
@[simp] theorem bgStep_w (cart : Option Cartridge) (d : Nat) : (bgStep cart d p).w = p.w := by
  unfold bgStep; split <;> simp
@[simp] theorem bgStep_dataBuffer (cart : Option Cartridge) (d : Nat) : (bgStep cart d p).dataBuffer = p.dataBuffer := by
  unfold bgStep; split <;> simp
@[simp] theorem bgStep_nmiOut (cart : Option Cartridge) (d : Nat) : (bgStep cart d p).nmiOut = p.nmiOut := by
  unfold bgStep; split <;> simp
@[simp] theorem bgStep_vram (cart : Option Cartridge) (d : Nat) : (bgStep cart d p).vram = p.vram := by
  unfold bgStep; split <;> simp
@[simp] theorem bgStep_palette (cart : Option Cartridge) (d : Nat) : (bgStep cart d p).palette = p.palette := by
  unfold bgStep; split <;> simp
@[simp] theorem bgStep_oam (cart : Option Cartridge) (d : Nat) : (bgStep cart d p).oam = p.oam := by
  unfold bgStep; split <;> simp
@[simp] theorem bgStep_oam2 (cart : Option Cartridge) (d : Nat) : (bgStep cart d p).oam2 = p.oam2 := by
  unfold bgStep; split <;> simp
@[simp] theorem bgStep_scanline (cart : Option Cartridge) (d : Nat) : (bgStep cart d p).scanline = p.scanline := by
  unfold bgStep; split <;> simp
@[simp] theorem bgStep_dot (cart : Option Cartridge) (d : Nat) : (bgStep cart d p).dot = p.dot := by
  unfold bgStep; split <;> simp
@[simp] theorem bgStep_frame (cart : Option Cartridge) (d : Nat) : (bgStep cart d p).frame = p.frame := by
  unfold bgStep; split <;> simp
@[simp] theorem bgStep_spriteCount (cart : Option Cartridge) (d : Nat) : (bgStep cart d p).spriteCount = p.spriteCount := by
  unfold bgStep; split <;> simp
@[simp] theorem bgStep_sprLo (cart : Option Cartridge) (d : Nat) : (bgStep cart d p).sprLo = p.sprLo := by
  unfold bgStep; split <;> simp
@[simp] theorem bgStep_sprHi (cart : Option Cartridge) (d : Nat) : (bgStep cart d p).sprHi = p.sprHi := by
  unfold bgStep; split <;> simp
@[simp] theorem bgStep_sprite0InLine (cart : Option Cartridge) (d : Nat) : (bgStep cart d p).sprite0InLine = p.sprite0InLine := by
  unfold bgStep; split <;> simp
@[simp] theorem bgStep_frameBuffer (cart : Option Cartridge) (d : Nat) : (bgStep cart d p).frameBuffer = p.frameBuffer := by
  unfold bgStep; split <;> simp

/-! ### renderLine -/

@[simp] theorem renderLine_ctrl (cart : Option Cartridge) (s d : Nat) : (renderLine cart s d p).ctrl = p.ctrl := by
  simp [renderLine]
@[simp] theorem renderLine_mask (cart : Option Cartridge) (s d : Nat) : (renderLine cart s d p).mask = p.mask := by
  simp [renderLine]
@[simp] theorem renderLine_vblank (cart : Option Cartridge) (s d : Nat) : (renderLine cart s d p).vblank = p.vblank := by
  simp [renderLine]
@[simp] theorem renderLine_sprite0Hit (cart : Option Cartridge) (s d : Nat) : (renderLine cart s d p).sprite0Hit = p.sprite0Hit := by
  simp [renderLine]
@[simp] theorem renderLine_oamAddr (cart : Option Cartridge) (s d : Nat) : (renderLine cart s d p).oamAddr = p.oamAddr := by
  simp [renderLine]
@[simp] theorem renderLine_t (cart : Option Cartridge) (s d : Nat) : (renderLine cart s d p).t = p.t := by
  simp [renderLine]
@[simp] theorem renderLine_x (cart : Option Cartridge) (s d : Nat) : (renderLine cart s d p).x = p.x := by
  simp [renderLine]
@[simp] theorem renderLine_w (cart : Option Cartridge) (s d : Nat) : (renderLine cart s d p).w = p.w := by
  simp [renderLine]
@[simp] theorem renderLine_dataBuffer (cart : Option Cartridge) (s d : Nat) : (renderLine cart s d p).dataBuffer = p.dataBuffer := by
  simp [renderLine]
@[simp] theorem renderLine_nmiOut (cart : Option Cartridge) (s d : Nat) : (renderLine cart s d p).nmiOut = p.nmiOut := by
  simp [renderLine]
@[simp] theorem renderLine_vram (cart : Option Cartridge) (s d : Nat) : (renderLine cart s d p).vram = p.vram := by
  simp [renderLine]
@[simp] theorem renderLine_palette (cart : Option Cartridge) (s d : Nat) : (renderLine cart s d p).palette = p.palette := by
  simp [renderLine]
@[simp] theorem renderLine_oam (cart : Option Cartridge) (s d : Nat) : (renderLine cart s d p).oam = p.oam := by
  simp [renderLine]
@[simp] theorem renderLine_scanline (cart : Option Cartridge) (s d : Nat) : (renderLine cart s d p).scanline = p.scanline := by
  simp [renderLine]
@[simp] theorem renderLine_dot (cart : Option Cartridge) (s d : Nat) : (renderLine cart s d p).dot = p.dot := by
  simp [renderLine]
@[simp] theorem renderLine_frame (cart : Option Cartridge) (s d : Nat) : (renderLine cart s d p).frame = p.frame := by
  simp [renderLine]
@[simp] theorem renderLine_frameBuffer (cart : Option Cartridge) (s d : Nat) : (renderLine cart s d p).frameBuffer = p.frameBuffer := by
  simp [renderLine]

/-! ### advance -/

@[simp] theorem advance_ctrl : (advance p).ctrl = p.ctrl := by
  unfold advance; split <;> [rfl; split <;> rfl]
@[simp] theorem advance_mask : (advance p).mask = p.mask := by
  unfold advance; split <;> [rfl; split <;> rfl]
@[simp] theorem advance_vblank : (advance p).vblank = p.vblank := by
  unfold advance; split <;> [rfl; split <;> rfl]
@[simp] theorem advance_sprite0Hit : (advance p).sprite0Hit = p.sprite0Hit := by
  unfold advance; split <;> [rfl; split <;> rfl]
@[simp] theorem advance_spriteOverflow : (advance p).spriteOverflow = p.spriteOverflow := by
  unfold advance; split <;> [rfl; split <;> rfl]
@[simp] theorem advance_oamAddr : (advance p).oamAddr = p.oamAddr := by
  unfold advance; split <;> [rfl; split <;> rfl]
@[simp] theorem advance_v : (advance p).v = p.v := by
  unfold advance; split <;> [rfl; split <;> rfl]
@[simp] theorem advance_t : (advance p).t = p.t := by
  unfold advance; split <;> [rfl; split <;> rfl]
@[simp] theorem advance_x : (advance p).x = p.x := by
  unfold advance; split <;> [rfl; split <;> rfl]
@[simp] theorem advance_w : (advance p).w = p.w := by
  unfold advance; split <;> [rfl; split <;> rfl]
@[simp] theorem advance_dataBuffer : (advance p).dataBuffer = p.dataBuffer := by
  unfold advance; split <;> [rfl; split <;> rfl]
@[simp] theorem advance_nmiOut : (advance p).nmiOut = p.nmiOut := by
  unfold advance; split <;> [rfl; split <;> rfl]
@[simp] theorem advance_vram : (advance p).vram = p.vram := by
  unfold advance; split <;> [rfl; split <;> rfl]
@[simp] theorem advance_palette : (advance p).palette = p.palette := by
  unfold advance; split <;> [rfl; split <;> rfl]
@[simp] theorem advance_oam : (advance p).oam = p.oam := by
  unfold advance; split <;> [rfl; split <;> rfl]
@[simp] theorem advance_oam2 : (advance p).oam2 = p.oam2 := by
  unfold advance; split <;> [rfl; split <;> rfl]
@[simp] theorem advance_bgNextId : (advance p).bgNextId = p.bgNextId := by
  unfold advance; split <;> [rfl; split <;> rfl]
@[simp] theorem advance_bgNextAttr : (advance p).bgNextAttr = p.bgNextAttr := by
  unfold advance; split <;> [rfl; split <;> rfl]
@[simp] theorem advance_bgNextLo : (advance p).bgNextLo = p.bgNextLo := by
  unfold advance; split <;> [rfl; split <;> rfl]
@[simp] theorem advance_bgNextHi : (advance p).bgNextHi = p.bgNextHi := by
  unfold advance; split <;> [rfl; split <;> rfl]
@[simp] theorem advance_bgPatLo : (advance p).bgPatLo = p.bgPatLo := by
  unfold advance; split <;> [rfl; split <;> rfl]
@[simp] theorem advance_bgPatHi : (advance p).bgPatHi = p.bgPatHi := by
  unfold advance; split <;> [rfl; split <;> rfl]
@[simp] theorem advance_bgAttrLo : (advance p).bgAttrLo = p.bgAttrLo := by
  unfold advance; split <;> [rfl; split <;> rfl]
@[simp] theorem advance_bgAttrHi : (advance p).bgAttrHi = p.bgAttrHi := by
  unfold advance; split <;> [rfl; split <;> rfl]
@[simp] theorem advance_spriteCount : (advance p).spriteCount = p.spriteCount := by
  unfold advance; split <;> [rfl; split <;> rfl]
@[simp] theorem advance_sprLo : (advance p).sprLo = p.sprLo := by
  unfold advance; split <;> [rfl; split <;> rfl]
@[simp] theorem advance_sprHi : (advance p).sprHi = p.sprHi := by
  unfold advance; split <;> [rfl; split <;> rfl]
@[simp] theorem advance_sprite0InLine : (advance p).sprite0InLine = p.sprite0InLine := by
  unfold advance; split <;> [rfl; split <;> rfl]
@[simp] theorem advance_frameBuffer : (advance p).frameBuffer = p.frameBuffer := by
  unfold advance; split <;> [rfl; split <;> rfl]

end Sys2Proof.Machine
end

