-- ==== Sys2Proof/Laws/Ppu.lean ====
section
/-! SUPPORT. One dot of the PPU: what it leaves alone, the position it moves to, v, and the invariant of the PPU. -/

namespace Sys2Proof.Machine

open Bits

/-! ## The state a dot is drawn in -/

/-- The PPU after the actions of a dot and before the counters advance. -/
def beforeAdvance (cart : Option Cartridge) (p : Ppu) : Ppu :=
  let s := p.scanline.val
  let d := p.dot.val
  (((p.when (decide (s = 261 ∧ d = 1)) preRenderClear).when (decide (s = 241 ∧ d = 1)) startVBlank).when
    (decide (s ≤ 239 ∨ s = 261)) (renderLine cart s d)).when (decide (s ≤ 239 ∧ 1 ≤ d ∧ d ≤ 256)) (composePixel cart s d)

theorem ppuDot_eq (cart : Option Cartridge) (p : Ppu) : ppuDot cart p = advance (beforeAdvance cart p) := rfl

section
variable (cart : Option Cartridge) (p : Ppu)

@[simp] theorem beforeAdvance_scanline : (beforeAdvance cart p).scanline = p.scanline := by simp [beforeAdvance]
@[simp] theorem beforeAdvance_dot : (beforeAdvance cart p).dot = p.dot := by simp [beforeAdvance]
@[simp] theorem beforeAdvance_frame : (beforeAdvance cart p).frame = p.frame := by simp [beforeAdvance]

@[simp] theorem ppuDot_ctrl : (ppuDot cart p).ctrl = p.ctrl := by simp [ppuDot]
@[simp] theorem ppuDot_mask : (ppuDot cart p).mask = p.mask := by simp [ppuDot]
@[simp] theorem ppuDot_oamAddr : (ppuDot cart p).oamAddr = p.oamAddr := by simp [ppuDot]
@[simp] theorem ppuDot_t : (ppuDot cart p).t = p.t := by simp [ppuDot]
@[simp] theorem ppuDot_x : (ppuDot cart p).x = p.x := by simp [ppuDot]
@[simp] theorem ppuDot_w : (ppuDot cart p).w = p.w := by simp [ppuDot]
@[simp] theorem ppuDot_dataBuffer : (ppuDot cart p).dataBuffer = p.dataBuffer := by simp [ppuDot]
@[simp] theorem ppuDot_vram : (ppuDot cart p).vram = p.vram := by simp [ppuDot]
@[simp] theorem ppuDot_palette : (ppuDot cart p).palette = p.palette := by simp [ppuDot]
@[simp] theorem ppuDot_oam : (ppuDot cart p).oam = p.oam := by simp [ppuDot]
end

/-! ## The counters (R451) -/

theorem advance_position (p : Ppu) : (advance p).position = p.position + 1 := by
  have hd := p.dot.isLt
  have hs := p.scanline.isLt
  unfold advance Ppu.position
  split
  · simp only; ring
  · split
    · simp only [Fin.val_zero]
      rw [show p.dot.val = 340 by omega]; ring
    · simp only [Fin.val_zero]
      rw [show p.dot.val = 340 by omega, show p.scanline.val = 261 by omega]; ring

/-- Every dot moves the PPU one place on. -/
theorem ppuDot_position (cart : Option Cartridge) (p : Ppu) : (ppuDot cart p).position = p.position + 1 := by
  rw [ppuDot_eq, advance_position]
  simp [Ppu.position]

/-- The position tells frame, scanline and dot. -/
theorem position_parts (p : Ppu) :
    p.dot.val = p.position % 341 ∧ p.scanline.val = p.position / 341 % 262 ∧ p.frame = p.position / 341 / 262 := by
  have hd := p.dot.isLt
  have hs := p.scanline.isLt
  have h1 : p.position % 341 = p.dot.val := by
    unfold Ppu.position
    rw [Nat.add_comm, Nat.add_mul_mod_self_right, Nat.mod_eq_of_lt hd]
  have h2 : p.position / 341 = p.frame * 262 + p.scanline.val := by
    unfold Ppu.position
    rw [Nat.add_comm, Nat.add_mul_div_right _ _ (by omega : 0 < 341), Nat.div_eq_of_lt hd]; simp
  refine ⟨h1.symm, ?_, ?_⟩
  · rw [h2, Nat.add_comm, Nat.add_mul_mod_self_right, Nat.mod_eq_of_lt hs]
  · rw [h2, Nat.add_comm, Nat.add_mul_div_right _ _ (by omega : 0 < 262), Nat.div_eq_of_lt hs]; simp

/-! ## The invariant -/

theorem Cells.ok_write {w n k : Nat} {m : Cells w} (u : BitVec w) (h : Cells.ok m n = true) (hk : k < n) :
    Cells.ok (Cells.write m k u) n = true := by
  simp only [Cells.ok, Bool.and_eq_true] at h ⊢
  exact ⟨Cells.write_wf _ _ h.1, Cells.write_within _ h.2 hk⟩

theorem Cells.ok_wf {w n : Nat} {m : Cells w} (h : Cells.ok m n = true) : Memory.wf m = true := by
  simp only [Cells.ok, Bool.and_eq_true] at h; exact h.1

/-- The PPU's invariant is about its four memories. -/
theorem Ppu.inv_congr {p q : Ppu} (h1 : q.vram = p.vram) (h2 : q.palette = p.palette) (h3 : q.oam = p.oam)
    (h4 : q.frameBuffer = p.frameBuffer) : q.inv = p.inv := by
  simp [Ppu.inv, h1, h2, h3, h4]

theorem Ppu.inv_parts {p : Ppu} (h : p.inv = true) :
    Cells.ok p.vram 2048 = true ∧ Cells.ok p.palette 32 = true ∧ Cells.ok p.oam 256 = true ∧
      Cells.ok p.frameBuffer 61440 = true := by
  simp only [Ppu.inv, Bool.and_eq_true] at h
  exact ⟨h.1.1.1, h.1.1.2, h.1.2, h.2⟩

theorem Ppu.inv_of_parts {p : Ppu} (h1 : Cells.ok p.vram 2048 = true) (h2 : Cells.ok p.palette 32 = true)
    (h3 : Cells.ok p.oam 256 = true) (h4 : Cells.ok p.frameBuffer 61440 = true) : p.inv = true := by
  simp only [Ppu.inv, Bool.and_eq_true]
  exact ⟨⟨⟨h1, h2⟩, h3⟩, h4⟩

/-- Every dot keeps the PPU's invariant. -/
theorem ppuDot_inv (cart : Option Cartridge) (p : Ppu) (h : p.inv = true) : (ppuDot cart p).inv = true := by
  obtain ⟨h1, h2, h3, h4⟩ := Ppu.inv_parts h
  refine Ppu.inv_of_parts (by simpa) (by simpa) (by simpa) ?_
  rw [ppuDot_eq, advance_frameBuffer, beforeAdvance, when_frameBuffer]
  split
  · rename_i hc
    simp only [decide_eq_true_eq] at hc
    simp only [composePixel]
    exact Cells.ok_write _ (by simpa using h4) (by omega)
  · simpa using h4

/-! ## The fields of v (R49) -/

/-- v is determined by its fields. -/
theorem v_ext {v w : BitVec 15} (h1 : coarseX v = coarseX w) (h2 : coarseY v = coarseY w) (h3 : nametableX v = nametableX w)
    (h4 : nametableY v = nametableY w) (h5 : fineY v = fineY w) : v = w := by
  apply BitVec.eq_of_getLsbD_eq
  intro i hi
  have a1 := fun k (hk : k < 5) => congrArg (·.getLsbD k) h1
  have a2 := fun k (hk : k < 5) => congrArg (·.getLsbD k) h2
  have a5 := fun k (hk : k < 3) => congrArg (·.getLsbD k) h5
  simp only [coarseX, coarseY, fineY, BitVec.getLsbD_extractLsb'] at a1 a2 a5
  simp only [nametableX, nametableY] at h3 h4
  by_cases c1 : i < 5
  · simpa [c1] using a1 i c1
  · by_cases c2 : i < 10
    · have := a2 (i - 5) (by omega)
      rw [show 5 + (i - 5) = i by omega] at this
      simpa [show i - 5 < 5 by omega] using this
    · by_cases c3 : i = 10
      · subst c3; exact h3
      · by_cases c4 : i = 11
        · subst c4; exact h4
        · have := a5 (i - 12) (by omega)
          rw [show 12 + (i - 12) = i by omega] at this
          simpa [show i - 12 < 3 by omega] using this

/-- A field read after a field write: the same field, or one that does not overlap. -/
theorem extract_putField {n w u : Nat} (v : BitVec n) (lo lo' : Nat) (f : BitVec w) (hw : lo + w ≤ n)
    (h : lo' + u ≤ lo ∨ lo + w ≤ lo') : (putField v lo f).extractLsb' lo' u = v.extractLsb' lo' u := by
  apply BitVec.eq_of_getLsbD_eq
  intro i hi
  simp only [BitVec.getLsbD_extractLsb', getLsbD_putField _ _ _ _ hw, hi, decide_true, Bool.true_and]
  rw [if_neg (by omega)]

theorem extract_putField_self {n w : Nat} (v : BitVec n) (lo : Nat) (f : BitVec w) (hw : lo + w ≤ n) :
    (putField v lo f).extractLsb' lo w = f := by
  apply BitVec.eq_of_getLsbD_eq
  intro i hi
  simp only [BitVec.getLsbD_extractLsb', getLsbD_putField _ _ _ _ hw, hi, decide_true, Bool.true_and]
  rw [if_pos (by omega)]
  congr 1; omega

/-! Each field of v after a write of each field. -/

section
variable (v : BitVec 15)

@[simp] theorem coarseX_putCoarseX (b : BitVec 5) : coarseX (putField v 0 b) = b :=
  extract_putField_self _ _ _ (by omega)
@[simp] theorem coarseX_putCoarseY (b : BitVec 5) : coarseX (putField v 5 b) = coarseX v :=
  extract_putField _ _ _ _ (by omega) (by omega)
@[simp] theorem coarseX_putNametableX (b : BitVec 1) : coarseX (putField v 10 b) = coarseX v :=
  extract_putField _ _ _ _ (by omega) (by omega)
@[simp] theorem coarseX_putNametableY (b : BitVec 1) : coarseX (putField v 11 b) = coarseX v :=
  extract_putField _ _ _ _ (by omega) (by omega)
@[simp] theorem coarseX_putFineY (b : BitVec 3) : coarseX (putField v 12 b) = coarseX v :=
  extract_putField _ _ _ _ (by omega) (by omega)
@[simp] theorem coarseY_putCoarseX (b : BitVec 5) : coarseY (putField v 0 b) = coarseY v :=
  extract_putField _ _ _ _ (by omega) (by omega)
@[simp] theorem coarseY_putCoarseY (b : BitVec 5) : coarseY (putField v 5 b) = b :=
  extract_putField_self _ _ _ (by omega)
@[simp] theorem coarseY_putNametableX (b : BitVec 1) : coarseY (putField v 10 b) = coarseY v :=
  extract_putField _ _ _ _ (by omega) (by omega)
@[simp] theorem coarseY_putNametableY (b : BitVec 1) : coarseY (putField v 11 b) = coarseY v :=
  extract_putField _ _ _ _ (by omega) (by omega)
@[simp] theorem coarseY_putFineY (b : BitVec 3) : coarseY (putField v 12 b) = coarseY v :=
  extract_putField _ _ _ _ (by omega) (by omega)
@[simp] theorem nametableX_putCoarseX (b : BitVec 5) : nametableX (putField v 0 b) = nametableX v := by
  simp only [nametableX]; rw [getLsbD_putField _ _ _ _ (by omega), if_neg (by omega)]
@[simp] theorem nametableX_putCoarseY (b : BitVec 5) : nametableX (putField v 5 b) = nametableX v := by
  simp only [nametableX]; rw [getLsbD_putField _ _ _ _ (by omega), if_neg (by omega)]
@[simp] theorem nametableX_putNametableX (b : BitVec 1) : nametableX (putField v 10 b) = b.getLsbD 0 := by
  simp only [nametableX]; rw [getLsbD_putField _ _ _ _ (by omega), if_pos (by omega)]
@[simp] theorem nametableX_putNametableY (b : BitVec 1) : nametableX (putField v 11 b) = nametableX v := by
  simp only [nametableX]; rw [getLsbD_putField _ _ _ _ (by omega), if_neg (by omega)]
@[simp] theorem nametableX_putFineY (b : BitVec 3) : nametableX (putField v 12 b) = nametableX v := by
  simp only [nametableX]; rw [getLsbD_putField _ _ _ _ (by omega), if_neg (by omega)]
@[simp] theorem nametableY_putCoarseX (b : BitVec 5) : nametableY (putField v 0 b) = nametableY v := by
  simp only [nametableY]; rw [getLsbD_putField _ _ _ _ (by omega), if_neg (by omega)]
@[simp] theorem nametableY_putCoarseY (b : BitVec 5) : nametableY (putField v 5 b) = nametableY v := by
  simp only [nametableY]; rw [getLsbD_putField _ _ _ _ (by omega), if_neg (by omega)]
@[simp] theorem nametableY_putNametableX (b : BitVec 1) : nametableY (putField v 10 b) = nametableY v := by
  simp only [nametableY]; rw [getLsbD_putField _ _ _ _ (by omega), if_neg (by omega)]
@[simp] theorem nametableY_putNametableY (b : BitVec 1) : nametableY (putField v 11 b) = b.getLsbD 0 := by
  simp only [nametableY]; rw [getLsbD_putField _ _ _ _ (by omega), if_pos (by omega)]
@[simp] theorem nametableY_putFineY (b : BitVec 3) : nametableY (putField v 12 b) = nametableY v := by
  simp only [nametableY]; rw [getLsbD_putField _ _ _ _ (by omega), if_neg (by omega)]
@[simp] theorem fineY_putCoarseX (b : BitVec 5) : fineY (putField v 0 b) = fineY v :=
  extract_putField _ _ _ _ (by omega) (by omega)
@[simp] theorem fineY_putCoarseY (b : BitVec 5) : fineY (putField v 5 b) = fineY v :=
  extract_putField _ _ _ _ (by omega) (by omega)
@[simp] theorem fineY_putNametableX (b : BitVec 1) : fineY (putField v 10 b) = fineY v :=
  extract_putField _ _ _ _ (by omega) (by omega)
@[simp] theorem fineY_putNametableY (b : BitVec 1) : fineY (putField v 11 b) = fineY v :=
  extract_putField _ _ _ _ (by omega) (by omega)
@[simp] theorem fineY_putFineY (b : BitVec 3) : fineY (putField v 12 b) = b :=
  extract_putField_self _ _ _ (by omega)
end

/-! ## How a dot moves v -/

theorem bgStep_v (cart : Option Cartridge) (d : Nat) (p : Ppu) :
    (bgStep cart d p).v = if (d - 1) % 8 = 7 ∧ p.rendering = true then incXOf p.v else p.v := by
  unfold bgStep
  split <;> rename_i h <;> simp [h, incX, Ppu.rendering]
  intro h7; exact absurd h7 (by assumption)

/-- What the actions of a render line do to v. -/
theorem renderLine_v (cart : Option Cartridge) (s d : Nat) (p : Ppu) :
    (renderLine cart s d p).v =
      if p.rendering = true then
        (if d = 256 then incYOf (incXOf p.v)
         else if (1 ≤ d ∧ d ≤ 255 ∨ 321 ≤ d ∧ d ≤ 336) ∧ d % 8 = 0 then incXOf p.v
         else if d = 257 then copyXOf p.v p.t
         else if s = 261 ∧ 280 ≤ d ∧ d ≤ 304 then copyYOf p.v p.t
         else p.v)
      else p.v := by
  unfold renderLine
  simp only [when_v, fetchSprites_v, evaluateSprites_v, copyY, copyX, incY, when_t, fetchSprites_t, evaluateSprites_t,
    bgStep_v, bgStep_t, Ppu.rendering, when_mask, fetchSprites_mask, evaluateSprites_mask, bgStep_mask, ite_self]
  by_cases hr : (p.mask.getLsbD 3 || p.mask.getLsbD 4) = true
  · simp only [hr, and_true, Bool.and_true, decide_eq_true_eq, if_true]
    split_ifs <;> first | rfl | omega
  · have hf := Bool.eq_false_iff.2 hr
    simp only [hf, Bool.and_false, Bool.false_eq_true, and_false, if_false, ite_self]

/-! ## Parts of the PPU that most actions leave alone -/

/-- The registers of the background pipeline. -/
def Ppu.background (p : Ppu) :
    Byte × BitVec 2 × Byte × Byte × BitVec 16 × BitVec 16 × BitVec 16 × BitVec 16 :=
  (p.bgNextId, p.bgNextAttr, p.bgNextLo, p.bgNextHi, p.bgPatLo, p.bgPatHi, p.bgAttrLo, p.bgAttrHi)

/-- What sprite evaluation writes, but for the overflow flag. -/
def Ppu.evaluated (p : Ppu) : Fin 9 × Vector OamEntry 8 × Bool := (p.spriteCount, p.oam2, p.sprite0InLine)

theorem background_when {c : Bool} (f : Ppu → Ppu) (p : Ppu) (h : ∀ q, (f q).background = q.background) :
    (p.when c f).background = p.background := by
  cases c <;> simp [Ppu.when, h]

theorem evaluated_when {c : Bool} (f : Ppu → Ppu) (p : Ppu) (h : ∀ q, (f q).evaluated = q.evaluated) :
    (p.when c f).evaluated = p.evaluated := by
  cases c <;> simp [Ppu.when, h]

theorem background_renderLine (cart : Option Cartridge) (s d : Nat) (p : Ppu) :
    (renderLine cart s d p).background =
      (p.when (decide (1 ≤ d ∧ d ≤ 256 ∨ 321 ≤ d ∧ d ≤ 336)) (bgStep cart d)).background := by
  unfold renderLine
  simp only
  rw [background_when copyY _ (fun q => rfl), background_when (fetchSprites cart) _ (fun q => rfl),
    background_when evaluateSprites _ (fun q => rfl), background_when copyX _ (fun q => rfl),
    background_when incY _ (fun q => rfl)]

/-- A PPU read depends on the PPU's memories alone. -/
theorem ppuRead_congr {p q : Ppu} (cart : Option Cartridge) (a : BitVec 14) (h1 : q.vram = p.vram)
    (h2 : q.palette = p.palette) : ppuRead cart q a = ppuRead cart p a := by
  simp [ppuRead, h1, h2]

/-! ## Sprites -/

theorem tabulate8_get {α : Type} (f : Fin 8 → α) (k : Fin 8) : (tabulate8 f)[k] = f k := by
  obtain ⟨k, hk⟩ := k
  unfold tabulate8
  interval_cases k <;> rfl

/-- The entries evaluation selects, in the words of the claims. -/
theorem selected_eq (p : Ppu) : selected p = (coveringEntries p).take 8 := by
  unfold selected coveringEntries
  congr 1
  refine List.filter_congr fun e _ => ?_
  simp [inRange, coversNextLine, nextScanline, spriteHeight]; rfl

theorem pair_ne_zero (a b : Bool) : pair a b ≠ 0 ↔ (a = true ∨ b = true) := by cases a <;> cases b <;> decide

/-- The first slot that shows something is the one found. -/
theorem slots_first {α : Type} (f : Fin 8 → Option α) (k : Fin 8) (x : α) (h : ∀ j, j < k → f j = none)
    (hk : f k = some x) : slots.findSome? f = some x := by
  unfold slots
  fin_cases k <;> simp only [Fin.zero_eta, Fin.mk_one, Fin.reduceFinMk] at h hk <;> simp only [List.findSome?, hk]
  all_goals (have h0 := h 0 (by decide); simp only [h0])
  all_goals (have h0 := h 1 (by decide); simp only [h0])
  all_goals (have h0 := h 2 (by decide); simp only [h0])
  all_goals (have h0 := h 3 (by decide); simp only [h0])
  all_goals (have h0 := h 4 (by decide); simp only [h0])
  all_goals (have h0 := h 5 (by decide); simp only [h0])
  all_goals (have h0 := h 6 (by decide); simp only [h0])

/-- The pixel a dot composes depends on these fields alone. -/
theorem composePixel_congr {p q : Ppu} (cart : Option Cartridge) (s d : Nat)
    (h1 : (q.bgPatLo, q.bgPatHi, q.bgAttrLo, q.bgAttrHi) = (p.bgPatLo, p.bgPatHi, p.bgAttrLo, p.bgAttrHi))
    (h2 : q.evaluated = p.evaluated) (h3 : q.sprLo = p.sprLo) (h4 : q.sprHi = p.sprHi) (h5 : q.mask = p.mask)
    (h6 : q.x = p.x) (h7 : q.vram = p.vram) (h8 : q.palette = p.palette) (h9 : q.frameBuffer = p.frameBuffer)
    (h10 : q.sprite0Hit = p.sprite0Hit) :
    (composePixel cart s d q).frameBuffer = (composePixel cart s d p).frameBuffer ∧
      (composePixel cart s d q).sprite0Hit = (composePixel cart s d p).sprite0Hit := by
  simp only [Ppu.evaluated, Prod.mk.injEq] at h1 h2
  have hs : slotPixel q = slotPixel p := by
    funext sx i; simp only [slotPixel, h2, h3, h4]
  simp only [composePixel, bgPixel, spritePixel, hitsSpriteZero, colourIndex, h1, hs, h5, h6, h9, h10,
    ppuRead_congr cart _ h7 h8, and_self]

end Sys2Proof.Machine
end

