-- ==== Sys2Proof/Laws/Exec.lean ====
section
/-! SUPPORT. What an instruction can do to the state, said once: it reads the bus, writes the bus and changes CPU registers
in some order (`Touches`). Every property that these three keep is kept by every instruction, by NMI entry and by a fetch. -/

namespace Sys2Proof.Machine

/-- P's hard-wired bits are as in `q`, or they are 1 (Unused) and 0 (Break) (R34, R35). -/
def wiredAlike (p q : Byte) : Prop :=
  (getFlag .u p = getFlag .u q ∧ getFlag .b p = getFlag .b q) ∨ (getFlag .u p = true ∧ getFlag .b p = false)

/-- `t` comes from `s` by bus reads, bus writes and changes of CPU registers that raise no NMI. -/
inductive Touches (s : State) : State → Prop
  | refl : Touches s s
  | read {t : State} (a : Word) : Touches s t → Touches s (afterRead a t)
  | write {t : State} (a : Word) (v : Byte) : Touches s t → Touches s (busWrite a v t)
  | cpu {t : State} (c : Cpu) : Touches s t → wiredAlike c.p t.cpu.p →
      (c.nmiPending = true → t.cpu.nmiPending = true) → Touches s { t with cpu := c }

namespace Touches

/-- A change of CPU registers that leaves P alone. -/
theorem registers {s t u : State} (h : Touches s t) (e : u = { t with cpu := u.cpu }) (hp : u.cpu.p = t.cpu.p)
    (hn : u.cpu.nmiPending = t.cpu.nmiPending) : Touches s u := by
  rw [e]
  exact h.cpu _ (.inl ⟨by rw [hp], by rw [hp]⟩) (by rw [hn]; exact id)

/-- A change of P that leaves its hard-wired bits alone, or sets them right. -/
theorem status {s t : State} (h : Touches s t) (f : Byte → Byte) (hp : wiredAlike (f t.cpu.p) t.cpu.p) :
    Touches s (t.mapP f) := h.cpu { t.cpu with p := f t.cpu.p } hp id

theorem trans {s t u : State} (h : Touches s t) (h' : Touches t u) : Touches s u := by
  induction h' with
  | refl => exact h
  | read a _ ih => exact ih.read a
  | write a v _ ih => exact ih.write a v
  | cpu c _ hp hn ih => exact ih.cpu c hp hn

theorem afterSrc {s t : State} (o : Src) (h : Touches s t) : Touches s (afterSrc o t) := by
  rw [afterSrc_eq]
  cases o with
  | imm v => exact h.registers rfl rfl rfl
  | mem m => exact (h.read (ea m t)).registers rfl rfl rfl

theorem push {s t : State} (v : Byte) (h : Touches s t) : Touches s (push v t) :=
  (h.write (stackAddress t.cpu.sp) v).registers rfl rfl rfl

theorem afterPull {s t : State} (h : Touches s t) : Touches s (afterPull t) :=
  (h.registers (u := t.setSp (t.cpu.sp + 1)) rfl rfl rfl).read _

end Touches

/-! ## Flag operations keep the hard-wired bits -/

theorem wiredAlike_of {p q : Byte} (h : ∀ f, f = .u ∨ f = .b → getFlag f p = getFlag f q) : wiredAlike p q :=
  .inl ⟨h _ (.inl rfl), h _ (.inr rfl)⟩

theorem wired_putNZ (r p : Byte) : wiredAlike (putNZ r p) p := wiredAlike_of (by rintro f (rfl | rfl) <;> simp)
theorem wired_putSum (a m p : Byte) : wiredAlike (putSum a m p) p := wiredAlike_of (by rintro f (rfl | rfl) <;> simp)
theorem wired_putCompare (r m p : Byte) : wiredAlike (putCompare r m p) p :=
  wiredAlike_of (by rintro f (rfl | rfl) <;> simp)
theorem wired_putBit (a m p : Byte) : wiredAlike (putBit a m p) p := wiredAlike_of (by rintro f (rfl | rfl) <;> simp)
theorem wired_putShift (b : Bool) (r p : Byte) : wiredAlike (putShift b r p) p :=
  wiredAlike_of (by rintro f (rfl | rfl) <;> simp)
theorem wired_putFlag {f : Flag} (b : Bool) (p : Byte) (hu : f ≠ .u) (hb : f ≠ .b) : wiredAlike (putFlag f b p) p :=
  wiredAlike_of (by rintro g (rfl | rfl) <;> simp [Ne.symm hu, Ne.symm hb])
theorem wired_restored (p q : Byte) : wiredAlike (restored p) q := .inr (restored_fixed p)

/-! ## Instructions -/

open Touches

/-- A load-like meaning: the operand is read, registers change, P is rewritten. -/
theorem touches_read {s u : State} (o : Src) (f : Byte → Byte) (hf : ∀ p, wiredAlike (f p) p)
    (e : u = { afterSrc o s with cpu := u.cpu }) (hp : u.cpu.p = s.cpu.p)
    (hn : u.cpu.nmiPending = s.cpu.nmiPending) : Touches s (u.mapP f) := by
  have hc : (afterSrc o s).cpu.p = s.cpu.p ∧ (afterSrc o s).cpu.nmiPending = s.cpu.nmiPending := by
    rw [afterSrc_eq]; simp [State.addCycles]
  exact ((refl.afterSrc o).registers e (by rw [hp, hc.1]) (by rw [hn, hc.2])).status f (hf _)

/-- A read-modify-write meaning. -/
theorem touches_rmw {s : State} (o : Rmw) (f : Byte → Byte) (r : Byte) (hf : ∀ p, wiredAlike (f p) p) :
    Touches s (rmwStore o f r s) := by
  cases o with
  | acc => exact (refl.registers (u := s.setA r) rfl rfl rfl).status f (hf _)
  | mem m =>
    rw [rmwStore_mem]
    exact ((refl.read (ea m s)).write _ _).status f (hf _)

theorem touches_branch (cond : Bool) (op8 : Byte) (s : State) : Touches s (branch cond op8 s) := by
  rw [branch_eq]
  exact refl.registers rfl (by split <;> rfl) (by split <;> rfl)

theorem touches_takeInterrupt {s t : State} (h : Touches s t) (returnTo : Word) (status : Byte) (vector : Word) :
    Touches s (takeInterrupt returnTo status vector t) := by
  have h1 := ((h.push (Bits.hiByte returnTo)).push (Bits.loByte returnTo)).push status
  have h2 := h1.status (putFlag .i true) (wired_putFlag _ _ (by decide) (by decide))
  exact ((h2.read vector).read (vector + 1)).registers rfl rfl rfl

theorem touches_returnFromInterrupt (s : State) : Touches s (returnFromInterrupt s) := by
  have h1 : Touches s ((afterPull s).setP (restored (pulled s))) :=
    refl.afterPull.cpu { (afterPull s).cpu with p := restored (pulled s) } (wired_restored _ _) id
  exact (h1.afterPull.afterPull).registers rfl rfl rfl

/-- Every meaning that gives a next state only touches the state. -/
theorem exec_touches {i : Instr} {s t : State} (h : exec i s = .next t) : Touches s t := by
  cases i with
  | lda o => cases h; exact touches_read o _ (wired_putNZ _) rfl (by rw [afterSrc_eq]; simp [State.addCycles]) (by rw [afterSrc_eq]; simp [State.addCycles])
  | ldx o => cases h; exact touches_read o _ (wired_putNZ _) rfl (by rw [afterSrc_eq]; simp [State.addCycles]) (by rw [afterSrc_eq]; simp [State.addCycles])
  | ldy o => cases h; exact touches_read o _ (wired_putNZ _) rfl (by rw [afterSrc_eq]; simp [State.addCycles]) (by rw [afterSrc_eq]; simp [State.addCycles])
  | sta o => cases h; rw [store_eq]; exact refl.write _ _
  | stx o => cases h; rw [store_eq]; exact refl.write _ _
  | sty o => cases h; rw [store_eq]; exact refl.write _ _
  | tax => cases h; exact (refl.registers (u := s.setX s.cpu.a) rfl rfl rfl).status _ (wired_putNZ _ _)
  | tay => cases h; exact (refl.registers (u := s.setY s.cpu.a) rfl rfl rfl).status _ (wired_putNZ _ _)
  | txa => cases h; exact (refl.registers (u := s.setA s.cpu.x) rfl rfl rfl).status _ (wired_putNZ _ _)
  | tya => cases h; exact (refl.registers (u := s.setA s.cpu.y) rfl rfl rfl).status _ (wired_putNZ _ _)
  | tsx => cases h; exact (refl.registers (u := s.setX s.cpu.sp) rfl rfl rfl).status _ (wired_putNZ _ _)
  | txs => cases h; exact refl.registers rfl rfl rfl
  | adc o => cases h; exact touches_read o _ (wired_putSum _ _) rfl (by rw [afterSrc_eq]; simp [State.addCycles]) (by rw [afterSrc_eq]; simp [State.addCycles])
  | sbc o => cases h; exact touches_read o _ (wired_putSum _ _) rfl (by rw [afterSrc_eq]; simp [State.addCycles]) (by rw [afterSrc_eq]; simp [State.addCycles])
  | and o => cases h; exact touches_read o _ (wired_putNZ _) rfl (by rw [afterSrc_eq]; simp [State.addCycles]) (by rw [afterSrc_eq]; simp [State.addCycles])
  | ora o => cases h; exact touches_read o _ (wired_putNZ _) rfl (by rw [afterSrc_eq]; simp [State.addCycles]) (by rw [afterSrc_eq]; simp [State.addCycles])
  | eor o => cases h; exact touches_read o _ (wired_putNZ _) rfl (by rw [afterSrc_eq]; simp [State.addCycles]) (by rw [afterSrc_eq]; simp [State.addCycles])
  | bit o => cases h; rw [afterMem_eq]; exact (refl.read _).status _ (wired_putBit _ _ _)
  | cmp o => cases h; exact (refl.afterSrc o).status _ (wired_putCompare _ _ _)
  | cpx o => cases h; exact (refl.afterSrc o).status _ (wired_putCompare _ _ _)
  | cpy o => cases h; exact (refl.afterSrc o).status _ (wired_putCompare _ _ _)
  | inc o => cases h; exact touches_rmw _ _ _ (wired_putNZ _)
  | dec o => cases h; exact touches_rmw _ _ _ (wired_putNZ _)
  | inx => cases h; exact (refl.registers (u := s.setX (s.cpu.x + 1)) rfl rfl rfl).status _ (wired_putNZ _ _)
  | iny => cases h; exact (refl.registers (u := s.setY (s.cpu.y + 1)) rfl rfl rfl).status _ (wired_putNZ _ _)
  | dex => cases h; exact (refl.registers (u := s.setX (s.cpu.x - 1)) rfl rfl rfl).status _ (wired_putNZ _ _)
  | dey => cases h; exact (refl.registers (u := s.setY (s.cpu.y - 1)) rfl rfl rfl).status _ (wired_putNZ _ _)
  | asl o => cases h; exact touches_rmw _ _ _ (wired_putShift _ _)
  | lsr o => cases h; exact touches_rmw _ _ _ (wired_putShift _ _)
  | rol o => cases h; exact touches_rmw _ _ _ (wired_putShift _ _)
  | ror o => cases h; exact touches_rmw _ _ _ (wired_putShift _ _)
  | php => cases h; exact refl.push _
  | pha => cases h; exact refl.push _
  | pla =>
    cases h
    exact (refl.afterPull.registers (u := (afterPull s).setA (pulled s)) rfl rfl rfl).status _ (wired_putNZ _ _)
  | plp => cases h; exact refl.afterPull.cpu { (afterPull s).cpu with p := restored (pulled s) } (wired_restored _ _) id
  | bcc op8 => cases h; exact touches_branch ..
  | bcs op8 => cases h; exact touches_branch ..
  | beq op8 => cases h; exact touches_branch ..
  | bmi op8 => cases h; exact touches_branch ..
  | bne op8 => cases h; exact touches_branch ..
  | bpl op8 => cases h; exact touches_branch ..
  | bvc op8 => cases h; exact touches_branch ..
  | bvs op8 => cases h; exact touches_branch ..
  | jmp o =>
    cases o with
    | abs w => cases h; exact refl.registers rfl rfl rfl
    | ind w => cases h; exact ((refl.read _).read _).registers rfl rfl rfl
  | jsr w => cases h; exact ((refl.push _).push _).registers rfl rfl rfl
  | rts => cases h; exact (refl.afterPull.afterPull).registers rfl rfl rfl
  | rti => cases h; exact touches_returnFromInterrupt s
  | brk => cases h; exact touches_takeInterrupt refl _ _ _
  | clc => cases h; exact refl.status _ (wired_putFlag _ _ (by decide) (by decide))
  | sec => cases h; exact refl.status _ (wired_putFlag _ _ (by decide) (by decide))
  | cli => cases h; exact refl.status _ (wired_putFlag _ _ (by decide) (by decide))
  | sei => cases h; exact refl.status _ (wired_putFlag _ _ (by decide) (by decide))
  | cld => cases h; exact refl.status _ (wired_putFlag _ _ (by decide) (by decide))
  | sed => cases h; exact refl.status _ (wired_putFlag _ _ (by decide) (by decide))
  | clv => cases h; exact refl.status _ (wired_putFlag _ _ (by decide) (by decide))
  | nop => cases h; exact refl
  | unassigned op =>
    simp only [exec, execUnassigned] at h
    split at h
    · cases h; exact refl
    · cases h

/-- Every meaning gives a next state, but for an unassigned opcode under ILLEGAL_OPCODE_POLICY = refuse. -/
theorem exec_total (i : Instr) (s : State) :
    (∃ t, exec i s = .next t) ∨
      (∃ op, i = .unassigned op ∧ s.params.illegalPolicy = .refuse ∧ exec i s = .refused (.illegalOpcode op)) := by
  cases i
  case unassigned op =>
    cases hp : s.params.illegalPolicy with
    | nop => exact .inl ⟨s, by simp [exec, execUnassigned, hp]⟩
    | refuse => exact .inr ⟨op, rfl, rfl, by simp [exec, execUnassigned, hp]⟩
  case jmp o => cases o <;> exact .inl ⟨_, rfl⟩
  all_goals exact .inl ⟨_, rfl⟩

/-! ## NMI entry and fetch -/

theorem enterNmi_touches (s : State) : Touches s (enterNmi s) := by
  have h1 : Touches s (s.setNmiPending false) :=
    refl.cpu { s.cpu with nmiPending := false } (.inl ⟨rfl, rfl⟩) (by simp)
  exact (touches_takeInterrupt h1 _ _ _).registers rfl rfl rfl

theorem afterFetch_touches (s : State) : Touches s (afterFetch s) := (refl.read _).registers rfl rfl rfl

theorem fetchBytes_touches (n : Nat) (s : State) : Touches s (fetchBytes n s).after := by
  induction n generalizing s with
  | zero => exact refl
  | succ n ih => exact (afterFetch_touches s).trans (ih _)

theorem fetchInstruction_touches (s : State) : Touches s (fetchInstruction s).after :=
  (afterFetch_touches s).trans (fetchBytes_touches _ _)

theorem setCountdown_touches {s t : State} (n : Nat) (h : Touches s t) : Touches s (t.setCountdown n) :=
  h.registers rfl rfl rfl

theorem executeInstruction_touches {s t : State} (h : executeInstruction s = .next t) : Touches s t := by
  unfold executeInstruction at h
  exact (setCountdown_touches _ (fetchInstruction_touches s)).trans (exec_touches h)

theorem countDown_touches (s : State) : Touches s (countDown s) := refl.registers rfl rfl rfl

/-- Going on from a next state: what it takes. -/
theorem andThen_next {r : Result} {f : State → State} {t : State} (h : andThen r f = .next t) :
    ∃ u, r = .next u ∧ t = f u := by
  cases r with
  | next u => exact ⟨u, rfl, by simpa [andThen] using h.symm⟩
  | fault e => simp [andThen] at h
  | refused e => simp [andThen] at h

theorem cpuCycle_touches {s t : State} (h : cpuCycle s = .next t) : Touches s t := by
  unfold cpuCycle at h
  split at h
  · split at h
    · cases h; exact (enterNmi_touches s).trans (countDown_touches _)
    · obtain ⟨u, hu, rfl⟩ := andThen_next h
      exact (executeInstruction_touches hu).trans (countDown_touches _)
  · cases h; exact countDown_touches s

theorem cpuPart_touches {s t : State} (h : cpuPart s = .next t) : Touches s t := by
  unfold cpuPart at h
  split at h
  · exact cpuCycle_touches h
  · cases h; exact refl

/-! ## What is kept -/

namespace Touches

variable {s t : State}

theorem clockCounter (h : Touches s t) : t.clockCounter = s.clockCounter := by
  induction h with
  | refl => rfl
  | read a _ ih => simpa
  | write a v _ ih => rw [(busWrite_frame a v _).2.1, ih]
  | cpu c _ _ _ ih => exact ih

theorem params (h : Touches s t) : t.params = s.params := by
  induction h with
  | refl => rfl
  | read a _ ih => simpa
  | write a v _ ih => rw [(busWrite_frame a v _).2.2, ih]
  | cpu c _ _ _ ih => exact ih

theorem constants (h : Touches s t) : t.cart.map Cartridge.constants = s.cart.map Cartridge.constants := by
  induction h with
  | refl => rfl
  | read a _ ih => simpa
  | write a v _ ih => rw [busWrite_constants, ih]
  | cpu c _ _ _ ih => exact ih

theorem nmiPending (h : Touches s t) (hn : t.cpu.nmiPending = true) : s.cpu.nmiPending = true := by
  induction h with
  | refl => exact hn
  | read a _ ih => exact ih (by simpa using hn)
  | write a v _ ih => exact ih (by rw [(busWrite_frame a v _).1] at hn; exact hn)
  | cpu c _ _ h ih => exact ih (h hn)

end Touches

/-- What the registers of the PPU never do: the timing, the NMI request and the pipeline are the dot's alone. -/
theorem ppuRegWrite_ppu_frame (r : Nat) (v : Byte) (s : State) :
    (ppuRegWrite r v s).ppu =
      { s.ppu with
        ctrl := (ppuRegWrite r v s).ppu.ctrl, mask := (ppuRegWrite r v s).ppu.mask
        oamAddr := (ppuRegWrite r v s).ppu.oamAddr, v := (ppuRegWrite r v s).ppu.v, t := (ppuRegWrite r v s).ppu.t
        x := (ppuRegWrite r v s).ppu.x, w := (ppuRegWrite r v s).ppu.w, vram := (ppuRegWrite r v s).ppu.vram
        palette := (ppuRegWrite r v s).ppu.palette, oam := (ppuRegWrite r v s).ppu.oam } := by
  unfold ppuRegWrite
  split <;> try rfl
  · simp only [scrollWrite]; split <;> rfl
  · simp only [addrWrite]; split <;> rfl
  · simp only [ppuDataWrite, ppuWrite]; split <;> [rfl; (split <;> rfl)]

theorem dmaCopy_timing (page : Byte) (n i : Nat) (s : State) :
    (dmaCopy page n i s).ppu.scanline = s.ppu.scanline ∧ (dmaCopy page n i s).ppu.dot = s.ppu.dot ∧
      (dmaCopy page n i s).ppu.frame = s.ppu.frame ∧ (dmaCopy page n i s).ppu.nmiOut = s.ppu.nmiOut ∧
      (dmaCopy page n i s).ppu.oamAddr = s.ppu.oamAddr ∧
      (dmaCopy page n i s).ctl.strobe = s.ctl.strobe ∧ (dmaCopy page n i s).ctl.buttons0 = s.ctl.buttons0 ∧
      (dmaCopy page n i s).ctl.buttons1 = s.ctl.buttons1 := by
  induction n generalizing i s with
  | zero => simp [dmaCopy]
  | succ n ih =>
    simp only [dmaCopy]
    obtain ⟨h1, h2, h3, h4, h5, h6, h7, h8⟩ := ih (i + 1) (dmaByte page i s)
    rw [h1, h2, h3, h4, h5, h6, h7, h8, dmaByte_eq]
    refine ⟨?_, ?_, ?_, ?_, ?_, ?_, ?_, ?_⟩ <;> first | (simp; done) | (rw [State.setPpu_ppu, afterRead_ppu_frame])

/-- A bus write leaves the PPU's timing and the NMI request alone. -/
theorem busWrite_timing (a : Word) (v : Byte) (s : State) :
    (busWrite a v s).ppu.scanline = s.ppu.scanline ∧ (busWrite a v s).ppu.dot = s.ppu.dot ∧
      (busWrite a v s).ppu.frame = s.ppu.frame ∧ (busWrite a v s).ppu.nmiOut = s.ppu.nmiOut := by
  unfold busWrite
  split
  · simp
  · rw [ppuRegWrite_ppu_frame]; simp
  · obtain ⟨h1, h2, h3, h4, -⟩ := dmaCopy_timing v Config.oamSize 0 s
    exact ⟨h1, h2, h3, h4⟩
  · simp
  · simp
  · simp
  · split <;> simp

/-- A bus write leaves the buttons alone: they are the host's. -/
theorem busWrite_buttons (a : Word) (v : Byte) (s : State) :
    (busWrite a v s).ctl.buttons0 = s.ctl.buttons0 ∧ (busWrite a v s).ctl.buttons1 = s.ctl.buttons1 := by
  unfold busWrite
  split
  · simp
  · rw [ppuRegWrite_frame]; simp
  · obtain ⟨-, -, -, -, -, -, h7, h8⟩ := dmaCopy_timing v Config.oamSize 0 s
    exact ⟨h7, h8⟩
  · simp only [State.setCtl_ctl, ctlWrite]; split <;> simp
  · simp
  · simp
  · split <;> simp

namespace Touches

variable {s t : State}

/-- Only the dot moves the PPU's timing and requests an NMI. -/
theorem timing (h : Touches s t) :
    t.ppu.scanline = s.ppu.scanline ∧ t.ppu.dot = s.ppu.dot ∧ t.ppu.frame = s.ppu.frame ∧
      t.ppu.nmiOut = s.ppu.nmiOut := by
  induction h with
  | refl => simp
  | read a _ ih => rw [afterRead_ppu_frame]; exact ih
  | write a v _ ih =>
    obtain ⟨h1, h2, h3, h4⟩ := busWrite_timing a v _
    rw [h1, h2, h3, h4]; exact ih
  | cpu c _ _ _ ih => exact ih

theorem buttons (h : Touches s t) : t.ctl.buttons0 = s.ctl.buttons0 ∧ t.ctl.buttons1 = s.ctl.buttons1 := by
  induction h with
  | refl => simp
  | read a _ ih => simpa
  | write a v _ ih => obtain ⟨h1, h2⟩ := busWrite_buttons a v _; rw [h1, h2]; exact ih
  | cpu c _ _ _ ih => exact ih

end Touches

end Sys2Proof.Machine
end

