-- ==== Sys2Proof/Laws/Step.lean ====
section
/-! SUPPORT. The step: what a tick is made of, that the invariant is kept, the bound of the countdown, fetching, and runs of
many ticks. -/

namespace Sys2Proof.Machine

open Bits

/-! ## The parts of the invariant -/

/-- The cartridge and P are as the invariant says. -/
structure Sound (s : State) : Prop where
  ram : Cells.ok s.ram 2048 = true
  bringup : Cells.ok s.bringupRam 32768 = true
  ppu : s.ppu.inv = true
  cart : s.cart.all Cartridge.inv = true
  unused : s.flag .u = true
  brk : s.flag .b = false

theorem inv_iff (s : State) : s.inv = true ↔ Sound s := by
  unfold State.inv
  simp only [Bool.and_eq_true, Bool.not_eq_true']
  exact ⟨fun h => ⟨h.1.1.1.1.1, h.1.1.1.1.2, h.1.1.1.2, h.1.1.2, h.1.2, h.2⟩,
    fun h => ⟨⟨⟨⟨⟨h.ram, h.bringup⟩, h.ppu⟩, h.cart⟩, h.unused⟩, h.brk⟩⟩

theorem inv_ram_wf {s : State} (h : s.inv = true) : Memory.wf s.ram = true := Cells.ok_wf ((inv_iff s).1 h).ram
theorem inv_bringup_wf {s : State} (h : s.inv = true) : Memory.wf s.bringupRam = true :=
  Cells.ok_wf ((inv_iff s).1 h).bringup

/-! ## The invariant is kept by reads and writes -/

theorem afterRead_inv {a : Word} {s : State} (h : s.inv = true) : (afterRead a s).inv = true := by
  rw [inv_iff] at h ⊢
  refine ⟨by simpa using h.ram, by simpa using h.bringup, ?_, by simpa using h.cart, ?_, ?_⟩
  · rw [← h.ppu]
    refine Ppu.inv_congr ?_ ?_ ?_ ?_ <;> rw [afterRead_ppu_frame]
  · simpa [State.flag] using h.unused
  · simpa [State.flag] using h.brk

theorem ntIndex_lt (m : Mirroring) (a : BitVec 14) : ntIndex m a < 2048 := by
  unfold ntIndex
  cases m <;> simp only <;> omega

theorem palIndex_lt (a : BitVec 14) : palIndex a < 32 := by
  unfold palIndex
  simp only
  split <;> omega

theorem chrWrite_inv {cart : Option Cartridge} {a : Nat} {v : Byte} (h : cart.all Cartridge.inv = true)
    (ha : a ≤ 0x1FFF) : (chrWrite cart a v).all Cartridge.inv = true := by
  cases cart with
  | none => rfl
  | some c =>
    simp only [chrWrite]
    split
    · rename_i h0
      simp only [Option.all_some, Cartridge.inv, Bool.and_eq_true] at h ⊢
      refine ⟨⟨⟨h.1.1.1, ?_⟩, h.1.2⟩, h.2⟩
      refine Cells.ok_write _ h.1.1.2 ?_
      simp only [h0, Config.chrBankSize]
      omega
    · exact h

theorem ppuWrite_inv {a : BitVec 14} {v : Byte} {s : State} (h : s.inv = true) : (ppuWrite a v s).inv = true := by
  rw [inv_iff] at h ⊢
  obtain ⟨h1, h2, h3, h4⟩ := Ppu.inv_parts h.ppu
  unfold ppuWrite
  split
  · exact ⟨h.ram, h.bringup, h.ppu, chrWrite_inv h.cart ‹_›, h.unused, h.brk⟩
  · split
    · refine ⟨h.ram, h.bringup, ?_, h.cart, h.unused, h.brk⟩
      exact Ppu.inv_of_parts (Cells.ok_write _ h1 (ntIndex_lt _ _)) h2 h3 h4
    · refine ⟨h.ram, h.bringup, ?_, h.cart, h.unused, h.brk⟩
      exact Ppu.inv_of_parts h1 (Cells.ok_write _ h2 (palIndex_lt _)) h3 h4

/-- A change of the PPU that keeps its invariant keeps the machine's. -/
theorem setPpu_inv {s : State} {p : Ppu} (h : s.inv = true) (hp : p.inv = true) : (s.setPpu p).inv = true := by
  rw [inv_iff] at h ⊢
  exact ⟨h.ram, h.bringup, hp, h.cart, h.unused, h.brk⟩

theorem setCtl_inv {s : State} {c : Controllers} (h : s.inv = true) : (s.setCtl c).inv = true := by
  rw [inv_iff] at h ⊢
  exact ⟨h.ram, h.bringup, h.ppu, h.cart, h.unused, h.brk⟩

theorem oamWrite_inv {p : Ppu} {i : Nat} {v : Byte} (h : p.inv = true) (hi : i < 256) :
    Ppu.inv { p with oam := Cells.write p.oam i v } = true := by
  obtain ⟨h1, h2, h3, h4⟩ := Ppu.inv_parts h
  exact Ppu.inv_of_parts h1 h2 (Cells.ok_write _ h3 hi) h4

theorem ppuRegWrite_inv {r : Nat} {v : Byte} {s : State} (h : s.inv = true) : (ppuRegWrite r v s).inv = true := by
  have hp := ((inv_iff s).1 h).ppu
  unfold ppuRegWrite
  split
  · exact setPpu_inv h hp
  · exact setPpu_inv h hp
  · exact h
  · exact setPpu_inv h hp
  · exact setPpu_inv h (oamWrite_inv hp s.ppu.oamAddr.isLt)
  · refine setPpu_inv h ?_
    rw [← hp]
    simp only [scrollWrite]
    split <;> exact Ppu.inv_congr rfl rfl rfl rfl
  · refine setPpu_inv h ?_
    rw [← hp]
    simp only [addrWrite]
    split <;> exact Ppu.inv_congr rfl rfl rfl rfl
  · have hw := ppuWrite_inv (a := dataAddress s.ppu) (v := v) h
    exact setPpu_inv hw (((inv_iff _).1 hw).ppu)
  · exact h

theorem dmaByte_inv {page : Byte} {i : Nat} {s : State} (h : s.inv = true) (hi : i < 256) :
    (dmaByte page i s).inv = true := by
  have h1 := afterRead_inv (a := word page (BitVec.ofNat 8 i)) h
  exact setPpu_inv h1 (oamWrite_inv ((inv_iff _).1 h1).ppu hi)

theorem dmaCopy_inv {page : Byte} {s : State} (h : s.inv = true) : (dmaCopy page Config.oamSize 0 s).inv = true :=
  dmaCopy_keeps (P := fun s => s.inv = true) page (fun _ hi _ hs => dmaByte_inv hs hi) _ 0 s h (Nat.le_refl _)

theorem setCountdown_inv {s : State} {n : Nat} (h : s.inv = true) : (s.setCountdown n).inv = true := by
  rw [inv_iff] at h ⊢
  exact ⟨h.ram, h.bringup, h.ppu, h.cart, h.unused, h.brk⟩

theorem busWrite_inv {a : Word} {v : Byte} {s : State} (h : s.inv = true) : (busWrite a v s).inv = true := by
  have hs := (inv_iff s).1 h
  unfold busWrite
  split
  · rename_i i hi
    rw [inv_iff]
    refine ⟨Cells.ok_write _ hs.ram ?_, hs.bringup, hs.ppu, hs.cart, hs.unused, hs.brk⟩
    have := (target_eq_ram hi).2
    omega
  · exact ppuRegWrite_inv h
  · exact setCountdown_inv (dmaCopy_inv h)
  · exact setCtl_inv h
  · exact h
  · exact h
  · rename_i hp
    have ha := target_eq_prg hp
    split
    · rw [inv_iff]
      refine ⟨hs.ram, Cells.ok_write _ hs.bringup ?_, hs.ppu, hs.cart, hs.unused, hs.brk⟩
      omega
    · rename_i c hc
      rw [inv_iff]
      refine ⟨hs.ram, hs.bringup, hs.ppu, ?_, hs.unused, hs.brk⟩
      have := hs.cart
      rw [hc] at this
      simp only [State.setCart_cart, Option.all_some, prgWrite] at this ⊢
      split
      · exact this
      · simp only [Cartridge.inv, Bool.and_eq_true, decide_eq_true_eq] at this ⊢
        refine ⟨⟨this.1.1, ?_⟩, this.2⟩
        exact Nat.mod_lt _ (by omega)

/-- Whatever only touches the state keeps the invariant. -/
theorem Touches.inv {s t : State} (h : Touches s t) (hi : s.inv = true) : t.inv = true := by
  induction h with
  | refl => exact hi
  | read a _ ih => exact afterRead_inv ih
  | write a v _ ih => exact busWrite_inv ih
  | cpu c _ hp _ ih =>
    rw [inv_iff] at ih ⊢
    refine ⟨ih.ram, ih.bringup, ih.ppu, ih.cart, ?_, ?_⟩
    · rcases hp with ⟨hu, -⟩ | ⟨hu, -⟩
      · exact hu.trans ih.unused
      · exact hu
    · rcases hp with ⟨-, hb⟩ | ⟨-, hb⟩
      · exact hb.trans ih.brk
      · exact hb

/-! ## The parts of a tick -/

/-- The NMI forward in one equation (R522). -/
theorem forwardNmi_eq (s : State) :
    forwardNmi s =
      { s with
        ppu := { s.ppu with nmiOut := false }
        cpu := { s.cpu with nmiPending := s.cpu.nmiPending || s.ppu.nmiOut } } := by
  obtain ⟨cpu, ram, cc, br, ppu, cart, ctl, params⟩ := s
  obtain ⟨c1, c2, c3, c4, c5, c6, c7, c8⟩ := cpu
  unfold forwardNmi
  cases h : ppu.nmiOut
  · cases ppu; simp_all
  · simp [State.setPpu, State.setNmiPending]

/-- The dot and the forward in one equation. -/
theorem forward_dotPart (s : State) :
    forwardNmi (dotPart s) =
      { s with
        ppu := { ppuDot s.cart s.ppu with nmiOut := false }
        cpu := { s.cpu with nmiPending := s.cpu.nmiPending || (ppuDot s.cart s.ppu).nmiOut } } := by
  rw [forwardNmi_eq]; rfl

@[simp] theorem cpuCycleState_countdown (s : State) : (cpuCycleState s).cpu.countdown = s.cpu.countdown := by
  unfold cpuCycleState; split <;> simp [forward_dotPart]

@[simp] theorem cpuCycleState_clockCounter (s : State) : (cpuCycleState s).clockCounter = s.clockCounter := by
  unfold cpuCycleState; split <;> simp [forward_dotPart]

@[simp] theorem cpuCycleState_params (s : State) : (cpuCycleState s).params = s.params := by
  unfold cpuCycleState; split <;> simp [forward_dotPart]

/-- A tick is its CPU part, taken in the state in which it begins, and the rest. -/
theorem step_eq (s : State) : step s = andThen (cpuPart (cpuCycleState s)) (finishTick s.params.tickOrder) := by
  unfold step busTick cpuCycleState
  split <;> rename_i h <;> simp only [h] <;> rfl

/-- What a step that gives a next state has done. -/
theorem step_next {s t : State} (h : step s = .next t) :
    ∃ u, Touches (cpuCycleState s) u ∧ t = finishTick s.params.tickOrder u := by
  rw [step_eq] at h
  obtain ⟨u, hu, rfl⟩ := andThen_next h
  exact ⟨u, cpuPart_touches hu, rfl⟩

theorem forward_dotPart_inv {s : State} (h : s.inv = true) : (forwardNmi (dotPart s)).inv = true := by
  have hs := (inv_iff s).1 h
  rw [forward_dotPart, inv_iff]
  refine ⟨hs.ram, hs.bringup, ?_, hs.cart, hs.unused, hs.brk⟩
  rw [← ppuDot_inv s.cart s.ppu hs.ppu]
  exact Ppu.inv_congr rfl rfl rfl rfl

theorem countTick_inv {s : State} (h : s.inv = true) : (countTick s).inv = true := by
  rw [inv_iff] at h ⊢
  exact ⟨h.ram, h.bringup, h.ppu, h.cart, h.unused, h.brk⟩

/-- One dot, one tick: whatever the CPU part of the step does. -/
theorem step_position {s t : State} (h : step s = .next t) :
    t.ppu.position = s.ppu.position + 1 ∧ t.clockCounter = s.clockCounter + 1 ∧ t.ppu.nmiOut = false := by
  obtain ⟨u, hu, rfl⟩ := step_next h
  have hc := hu.clockCounter
  obtain ⟨h1, h2, h3, h4⟩ := hu.timing
  rw [cpuCycleState_clockCounter] at hc
  unfold finishTick
  split
  · rename_i ho
    simp only [cpuCycleState, ho, forward_dotPart] at h1 h2 h3 h4
    refine ⟨?_, by simp [countTick, hc], by simpa [countTick] using h4⟩
    have := ppuDot_position s.cart s.ppu
    simp only [Ppu.position] at this
    simp only [countTick, State.setClock_ppu, Ppu.position, h1, h2, h3]
    exact this
  · rename_i ho
    simp only [cpuCycleState, ho] at h1 h2 h3 h4
    refine ⟨?_, by simp [countTick, forward_dotPart, hc], by simp [countTick, forward_dotPart]⟩
    have := ppuDot_position u.cart u.ppu
    simp only [Ppu.position] at this
    simp only [countTick, State.setClock_ppu, forward_dotPart, Ppu.position]
    rw [this, h1, h2, h3]

/-! ## Fetching an instruction -/

/-- A fetch takes as many operand bytes as it was asked for. -/
theorem fetchBytes_length (n : Nat) (s : State) : (fetchBytes n s).bytes.length = n := by
  induction n generalizing s with
  | zero => rfl
  | succ n ih => simp [fetchBytes, ih]

/-- Fetching moves PC and no other register. -/
theorem fetchBytes_cpu (n : Nat) (s : State) :
    (fetchBytes n s).after.cpu = { s.cpu with pc := s.cpu.pc + BitVec.ofNat 16 n } := by
  induction n generalizing s with
  | zero => simp [fetchBytes]
  | succ n ih =>
    simp only [fetchBytes, ih]
    have e : (afterFetch s).cpu = { s.cpu with pc := s.cpu.pc + 1 } := by
      simp [afterFetch, State.setPc]
    rw [e]
    simp only [Cpu.mk.injEq, true_and, and_true]
    rw [Nat.add_comm n 1, BitVec.ofNat_add, BitVec.add_assoc]; rfl

/-- What is fetched decodes, with nothing left over. -/
theorem fetchInstruction_decode (s : State) : decode (fetchInstruction s).bytes = .ok (fetchedInstr s, []) := by
  have hl := fetchBytes_length (operandCount (fetchByte s)) (afterFetch s)
  have hle := operandCount_le (fetchByte s)
  have hb : (fetchInstruction s).bytes =
    fetchByte s :: (fetchBytes (operandCount (fetchByte s)) (afterFetch s)).bytes := rfl
  have e : (fetchInstruction s).bytes = fetchByte s ::
      ([(fetchInstruction s).bytes.getD 1 0, (fetchInstruction s).bytes.getD 2 0].take
        (operandCount (fetchByte s)) ++ []) := by
    rw [hb]
    congr 1
    generalize (fetchBytes (operandCount (fetchByte s)) (afterFetch s)).bytes = l at *
    generalize operandCount (fetchByte s) = n at *
    match l, n, hl, hle with
    | [], 0, _, _ => rfl
    | [a], 1, _, _ => simp
    | [a, b], 2, _, _ => simp
  conv_lhs => rw [e]
  rw [decode_bytes]
  rfl

/-- Bytes fetched from memory are read as they stand, and nothing else happens. -/
theorem fetchBytes_memory (n : Nat) (s : State)
    (h : ∀ k, k < n → canHoldCode (s.cpu.pc + BitVec.ofNat 16 k) = true) :
    (fetchBytes n s).bytes = (List.range n).map (fun k => busRead (s.cpu.pc + BitVec.ofNat 16 k) s) ∧
      sameOutside s (fetchBytes n s).after := by
  induction n generalizing s with
  | zero => exact ⟨rfl, rfl, rfl, rfl, rfl, rfl, rfl, rfl⟩
  | succ n ih =>
    have h0 := h 0 (by omega)
    simp only [BitVec.add_zero] at h0
    have e : afterFetch s = s.setPc (s.cpu.pc + 1) := by simp [afterFetch, afterRead_memory _ h0]
    obtain ⟨h1, h2⟩ := ih (afterFetch s) (fun k hk => by
      rw [e, State.setPc_pc]
      have := h (k + 1) (by omega)
      rwa [Nat.add_comm k 1, BitVec.ofNat_add, ← BitVec.add_assoc] at this)
    refine ⟨?_, ?_⟩
    · simp only [fetchBytes, h1, List.range_succ_eq_map, List.map_cons, List.map_map]
      congr 1
      · simp [fetchByte]
      · refine List.map_congr_left fun k _ => ?_
        rw [e]
        simp only [State.setPc_pc, busRead_setPc, Function.comp]
        rw [Nat.succ_eq_add_one, Nat.add_comm k 1, BitVec.ofNat_add, ← BitVec.add_assoc]; rfl
    · simp only [fetchBytes]
      rw [e] at h2 ⊢
      exact h2

/-! ## How a step ends -/

/-- The CPU part of a tick that starts no instruction. -/
theorem cpuPart_idle {s : State} (h : ¬ atBoundary s) :
    cpuPart s = .next (if s.clockCounter % 3 = 0 then countDown s else s) := by
  unfold cpuPart Config.cpuDivider
  by_cases hc : s.clockCounter % 3 = 0
  · rw [if_pos hc, if_pos hc, cpuCycle, if_neg fun e => h ⟨hc, e⟩]
  · rw [if_neg hc, if_neg hc]

end Sys2Proof.Machine
end

