-- ==== Sys2Proof/Laws/Effects.lean ====
section
/-! SUPPORT. One lemma per word that claims about an instruction are stated in (Safety.lean): when its parts hold of a next
state, and what the shared operations do in these words. -/

namespace Sys2Proof.Machine

open Bits

/-! ## Flags -/

/-- N and Z of a result, from the P that was written. -/
theorem setsNZ_of {s t : State} {r : Byte} {p : Byte} (ht : t.cpu.p = putNZ r p) (hp : p = s.cpu.p) :
    setsNZ r [.n, .z] s t := by
  subst hp
  refine ⟨by simp [State.flag, ht], by simp [State.flag, ht], fun f hf => ?_⟩
  simp at hf; simp [State.flag, ht, hf]

/-- The flags of a comparison. -/
theorem compares_of {s t : State} (r m : Byte) (h : t.cpu.p = putCompare r m s.cpu.p) : compares r m s t := by
  refine ⟨by simp [State.flag, h], by simp [State.flag, h], by simp [State.flag, h], fun f hf => ?_⟩
  simp at hf; simp [State.flag, h, hf]

/-- The flags of a shift or rotate. -/
theorem shiftFlags_of {s t : State} {b : Bool} {r : Byte} (h : t.cpu.p = putShift b r s.cpu.p) :
    t.flag .c = b ∧ setsNZ r [.n, .z, .c] s t := by
  refine ⟨by simp [State.flag, h], by simp [State.flag, h], by simp [State.flag, h], fun f hf => ?_⟩
  simp at hf; simp [State.flag, h, hf]

/-- Signed overflow in the words of the sign bits (R230). -/
theorem overflow_iff (a m r : Byte) :
    ((~~~(a ^^^ m) &&& (a ^^^ r) &&& 0x80) ≠ 0) ↔
      (a.getLsbD 7 = m.getLsbD 7 ∧ r.getLsbD 7 ≠ a.getLsbD 7) := by
  have h7 : (~~~(a ^^^ m) &&& (a ^^^ r) &&& 0x80).getLsbD 7 =
      (!(xor (a.getLsbD 7) (m.getLsbD 7)) && xor (a.getLsbD 7) (r.getLsbD 7)) := by
    simp only [BitVec.getLsbD_and, BitVec.getLsbD_not, BitVec.getLsbD_xor,
      show (0x80:Byte).getLsbD 7 = true from rfl]
    simp
  have hz : ((~~~(a ^^^ m) &&& (a ^^^ r) &&& 0x80) ≠ 0) ↔
      (~~~(a ^^^ m) &&& (a ^^^ r) &&& 0x80).getLsbD 7 = true := by
    constructor
    · intro h
      by_contra hc
      apply h
      apply BitVec.eq_of_getLsbD_eq
      intro i hi
      by_cases hi7 : i = 7
      · subst hi7; simpa using hc
      · have : (0x80 : Byte).getLsbD i = false := by interval_cases i <;> first | rfl | omega
        rw [BitVec.getLsbD_and, this]; simp
    · intro h e; rw [e] at h; simp at h
  rw [hz, h7]
  generalize a.getLsbD 7 = x; generalize m.getLsbD 7 = y; generalize r.getLsbD 7 = z
  revert x y z; decide

/-- The sum SBC takes, as a difference (R231). -/
theorem sbc_sum (a m : Byte) (c : Bool) :
    sumByte a (m ^^^ 0xFF) c = a - m - BitVec.ofNat 8 (if c then 0 else 1) := by
  have hx : (m ^^^ 0xFF).toNat = 255 - m.toNat := by
    have := BitVec.toNat_not (x := m)
    rw [show m ^^^ 0xFF = ~~~m from by rw [show (0xFF : Byte) = BitVec.allOnes 8 from rfl, BitVec.xor_allOnes]]
    simp
  have := m.isLt; have := a.isLt
  apply BitVec.eq_of_toNat_eq
  simp only [sumByte, sum, BitVec.toNat_ofNat, hx, BitVec.toNat_sub]
  cases c <;> simp <;> omega

/-- What is pushed of a sound P is restored to it, whatever Break and Unused were pushed as. -/
theorem restored_pushed {s : State} (h : s.inv = true) (st : Byte)
    (hs : ∀ f, f ≠ .b → f ≠ .u → getFlag f st = s.flag f) : restored st = s.cpu.p := by
  have hi := (inv_iff s).1 h
  apply ext_of_getFlag
  intro f
  have h1 := hi.unused; have h2 := hi.brk
  have := hs f
  cases f <;> simp_all [State.flag]

/-! ## Frames -/

/-- A change of the CPU alone. -/
theorem sameOutside_cpu (s : State) (c : Cpu) : sameOutside s { s with cpu := c } := ⟨rfl, rfl, rfl, rfl, rfl, rfl, rfl⟩

/-- Only the operand was read. -/
theorem readsOperandOnly_of {s t : State} (o : Src) (h : sameOutside (operandRead o s) t) : readsOperandOnly o s t := by
  refine ⟨h, fun a ha => ?_⟩
  rw [← operandRead_memory o s a ha]
  exact readsAlike_of_sameOutside h a

/-- The operand was read and registers changed. -/
theorem leavesAfterRead_of {s t : State} {o : Src} {c : Cpu} (e : t = { operandRead o s with cpu := t.cpu })
    (hc : t.cpu = { c with p := t.cpu.p, countdown := s.cpu.countdown + operandCycles o s }) : leavesAfterRead o s c t :=
  ⟨hc, readsOperandOnly_of o (by rw [e]; exact sameOutside_cpu _ _)⟩

/-- Registers changed and nothing else. -/
theorem leaves_of {s t : State} {c : Cpu} (e : t = { s with cpu := t.cpu }) (hc : t.cpu = { c with p := t.cpu.p }) :
    leaves s c t :=
  ⟨hc, by rw [e]; exact sameOutside_cpu _ _, by rw [e]; exact readsAlike_of_sameOutside (sameOutside_cpu _ _)⟩

/-! ## Shared operations -/

theorem operandRead_inv {o : Src} {s : State} (h : s.inv = true) : (operandRead o s).inv = true := by
  cases o with
  | imm v => exact h
  | mem m => exact afterRead_inv h

/-- The store of a read-modify-write, and the flags it wrote. -/
theorem rmw_effect (o : Rmw) (f : Byte → Byte) (r : Byte) (s : State) (h : s.inv = true) :
    rmwEffect o r s (rmwStore o f r s) ∧ (rmwStore o f r s).cpu.p = f s.cpu.p := by
  cases o with
  | acc => exact ⟨leaves_of rfl rfl, rfl⟩
  | mem m =>
    rw [rmwStore_mem]
    have hi := operandRead_inv (o := .mem m) h
    refine ⟨⟨storeEffect_setP (busWrite_storeEffect _ _ _ (inv_ram_wf hi) (inv_bringup_wf hi)), rfl⟩, ?_⟩
    simp only [State.mapP, State.setP_p]
    rw [(busWrite_frame _ _ _).1]; simp

theorem movedUp_rol (c : Bool) (m : Byte) : movedUp c m (rolByte c m) := by
  refine ⟨by simp [rolByte], fun k hk => ?_⟩
  interval_cases k <;> simp [rolByte]

theorem movedUp_asl (m : Byte) : movedUp false m (aslByte m) := by
  refine ⟨by simp [aslByte], fun k hk => ?_⟩
  interval_cases k <;> simp [aslByte]

theorem movedDown_ror (c : Bool) (m : Byte) : movedDown c m (rorByte c m) := by
  refine ⟨by simp [rorByte], fun k hk => ?_⟩
  interval_cases k <;> simp [rorByte]

theorem movedDown_lsr (m : Byte) : movedDown false m (lsrByte m) := by
  refine ⟨by simp [lsrByte], fun k hk => ?_⟩
  interval_cases k <;> simp [lsrByte]

/-- The branch routine (R320). -/
theorem branch_effect (cond : Bool) (op8 : Byte) (s : State) : branchEffect cond op8 s (branch cond op8 s) := by
  rw [branch_eq]
  refine ⟨⟨rfl, rfl, rfl, rfl, rfl, rfl, rfl⟩, fun a => rfl, ?_⟩
  have key : ∀ v : Word, hiByte v = BitVec.ofNat 8 (v.toNat / 256) := by
    intro v; apply BitVec.eq_of_toNat_eq; simp [hiByte, Nat.shiftRight_eq_div_pow]
  have : (hiByte (branchTarget op8 s) ≠ hiByte s.cpu.pc) ↔
      ((s.cpu.pc + op8.signExtend 16).toNat / 256 ≠ s.cpu.pc.toNat / 256) := by
    rw [key, key, not_iff_not]
    unfold branchTarget sext16
    generalize s.cpu.pc + op8.signExtend 16 = x
    have := x.isLt; have := s.cpu.pc.isLt
    constructor
    · intro h; have := congrArg BitVec.toNat h; simp at this; omega
    · intro h; rw [h]
  simp only [branchCycles, this]
  rfl

/-- The zero-page pointer of IZX and IZY as a number (R181, R182). -/
theorem pointer_toNat (p : Byte) (s : State) :
    (zeroPagePointer p s).toNat =
      (Cells.read s.ram p.toNat).toNat + 256 * (Cells.read s.ram ((p.toNat + 1) % 256)).toNat := by
  have e : (p + 1).toNat = (p.toNat + 1) % 256 := BitVec.toNat_add p 1
  simp only [zeroPagePointer, word_toNat, afterRead_zeroPage, busRead_zeroPage, e]
  omega

theorem hiByte_eq (v : Word) : hiByte v = BitVec.ofNat 8 (v.toNat / 256) := by
  apply BitVec.eq_of_toNat_eq; simp [hiByte, Nat.shiftRight_eq_div_pow]

/-- When an indexed sum leaves its page (R184). -/
theorem page_ne (w : Word) (x : Byte) : hiByte w ≠ hiByte (w + zext16 x) ↔ ¬ (w.toNat % 256 + x.toNat < 256) := by
  rw [not_iff_not, hiByte_eq, hiByte_eq]
  have := w.isLt; have := x.isLt
  constructor
  · intro h
    have := congrArg BitVec.toNat h
    simp at this; omega
  · intro h
    apply BitVec.eq_of_toNat_eq
    simp; omega

end Sys2Proof.Machine
end

