-- ==== Sys2Proof/Laws/PerInstr.lean ====
section
/-! SUPPORT. A law of the syntax, instruction by instruction: an encoding is the opcode and the operand bytes of the mode
(R140, R141). -/

namespace Sys2Proof.Laws.EncodedLength

/-- An instruction that has an encoding takes one byte and its mode's operand bytes (R141). -/
def Statement (i : Instr) : Prop := ∀ bs, encode i = some bs → bs.length = 1 + i.operandBytes

/-- What is left to show of an instruction: the length of its operand. -/
theorem of_operand {i : Instr} (h : i.operand.length = i.operandBytes) : Statement i := by
  intro bs hb
  simp only [encode, Option.map_eq_some_iff] at hb
  obtain ⟨op, -, rfl⟩ := hb
  rw [List.length_cons, h, Nat.add_comm]

theorem src_length (o : Src) : o.bytes.length = o.name.operandBytes := by
  rcases o with _ | (_ | _ | _ | _ | _ | _ | _ | _) <;> rfl

theorem mem_length (o : MemMode) : o.bytes.length = o.name.operandBytes := by cases o <;> rfl

theorem rmw_length (o : Rmw) : o.bytes.length = o.name.operandBytes := by
  rcases o with _ | (_ | _ | _ | _ | _ | _ | _ | _) <;> rfl

theorem lda (o : Src) : Statement (.lda o) := of_operand (src_length o)

theorem ldx (o : Src) : Statement (.ldx o) := of_operand (src_length o)

theorem ldy (o : Src) : Statement (.ldy o) := of_operand (src_length o)

theorem sta (o : MemMode) : Statement (.sta o) := of_operand (mem_length o)

theorem stx (o : MemMode) : Statement (.stx o) := of_operand (mem_length o)

theorem sty (o : MemMode) : Statement (.sty o) := of_operand (mem_length o)

theorem tax : Statement .tax := of_operand rfl

theorem tay : Statement .tay := of_operand rfl

theorem txa : Statement .txa := of_operand rfl

theorem tya : Statement .tya := of_operand rfl

theorem tsx : Statement .tsx := of_operand rfl

theorem txs : Statement .txs := of_operand rfl

theorem adc (o : Src) : Statement (.adc o) := of_operand (src_length o)

theorem sbc (o : Src) : Statement (.sbc o) := of_operand (src_length o)

theorem and (o : Src) : Statement (.and o) := of_operand (src_length o)

theorem ora (o : Src) : Statement (.ora o) := of_operand (src_length o)

theorem eor (o : Src) : Statement (.eor o) := of_operand (src_length o)

theorem bit (o : MemMode) : Statement (.bit o) := of_operand (mem_length o)

theorem cmp (o : Src) : Statement (.cmp o) := of_operand (src_length o)

theorem cpx (o : Src) : Statement (.cpx o) := of_operand (src_length o)

theorem cpy (o : Src) : Statement (.cpy o) := of_operand (src_length o)

theorem inc (o : MemMode) : Statement (.inc o) := of_operand (mem_length o)

theorem dec (o : MemMode) : Statement (.dec o) := of_operand (mem_length o)

theorem inx : Statement .inx := of_operand rfl

theorem iny : Statement .iny := of_operand rfl

theorem dex : Statement .dex := of_operand rfl

theorem dey : Statement .dey := of_operand rfl

theorem asl (o : Rmw) : Statement (.asl o) := of_operand (rmw_length o)

theorem lsr (o : Rmw) : Statement (.lsr o) := of_operand (rmw_length o)

theorem rol (o : Rmw) : Statement (.rol o) := of_operand (rmw_length o)

theorem ror (o : Rmw) : Statement (.ror o) := of_operand (rmw_length o)

theorem php : Statement .php := of_operand rfl

theorem pha : Statement .pha := of_operand rfl

theorem pla : Statement .pla := of_operand rfl

theorem plp : Statement .plp := of_operand rfl

theorem bcc (op8 : Byte) : Statement (.bcc op8) := of_operand rfl

theorem bcs (op8 : Byte) : Statement (.bcs op8) := of_operand rfl

theorem beq (op8 : Byte) : Statement (.beq op8) := of_operand rfl

theorem bmi (op8 : Byte) : Statement (.bmi op8) := of_operand rfl

theorem bne (op8 : Byte) : Statement (.bne op8) := of_operand rfl

theorem bpl (op8 : Byte) : Statement (.bpl op8) := of_operand rfl

theorem bvc (op8 : Byte) : Statement (.bvc op8) := of_operand rfl

theorem bvs (op8 : Byte) : Statement (.bvs op8) := of_operand rfl

theorem jmp (o : JumpTarget) : Statement (.jmp o) := of_operand (by cases o <;> rfl)

theorem jsr (target : Word) : Statement (.jsr target) := of_operand rfl

theorem rts : Statement .rts := of_operand rfl

theorem rti : Statement .rti := of_operand rfl

theorem brk : Statement .brk := of_operand rfl

theorem clc : Statement .clc := of_operand rfl

theorem sec : Statement .sec := of_operand rfl

theorem cli : Statement .cli := of_operand rfl

theorem sei : Statement .sei := of_operand rfl

theorem cld : Statement .cld := of_operand rfl

theorem sed : Statement .sed := of_operand rfl

theorem clv : Statement .clv := of_operand rfl

theorem nop : Statement .nop := of_operand rfl

theorem unassigned (opcode : Byte) : Statement (.unassigned opcode) := of_operand rfl

end Sys2Proof.Laws.EncodedLength
end

