-- ==== Sys2Proof/Tests/Slice0.lean ====
section
/-! SUPPORT. The model's own tests: ill-formed terms that WellFormed refuses, words written out from the Encoding lines of
41_load_store_transfer.md to 46_flags_nop.md, the cycle grid of rule R145, vectors of 95_test_vectors.md (or hand
calculation from the rule named), and for every claim with hypotheses a state that meets them. -/

namespace Sys2Proof.Tests

open Sys2Proof.Machine Sys2Proof.Bits

/-! ## WellFormed refuses operand forms without a row (R145) and assigned opcodes as unassigned (R146) -/

theorem test_wellFormed_refuses :
    ([.lda (.mem (.zpy 0)), .ldx (.mem (.zpx 0)), .ldy (.mem (.aby 0)), .sta (.zpy 0), .stx (.zpx 0), .sty (.abx 0), .adc (.mem (.zpy 0)), .sbc (.mem (.zpy 0)), .and (.mem (.zpy 0)), .ora (.mem (.zpy 0)), .eor (.mem (.zpy 0)), .bit (.zpx 0), .cmp (.mem (.zpy 0)), .cpx (.mem (.zpx 0)), .cpy (.mem (.abx 0)), .inc (.aby 0), .dec (.izx 0), .asl (.mem (.aby 0)), .lsr (.mem (.izy 0)), .rol (.mem (.zpy 0)), .ror (.mem (.izx 0)), .unassigned 0xEA] : List Instr).all (fun i => !i.wellFormed) = true := by decide

/-- An ill-formed term has no encoding. -/
theorem test_illFormed_has_no_encoding : encode (.sta (.zpy 0x10)) = none ∧ encode (.unassigned 0xEA) = none := by decide

/-! ## Words of the spec's encodings -/

/-- The one instruction a byte string holds, if it holds exactly one. -/
def sole (bytes : List Byte) : Option Instr :=
  match decode bytes with
  | .ok (i, []) => some i
  | .ok (_, _ :: _) | .error _ => none

theorem test_decode_lda :
    [[0xA9, 0x34], [0xA5, 0x34], [0xB5, 0x34], [0xAD, 0x34, 0x12], [0xBD, 0x34, 0x12], [0xB9, 0x34, 0x12], [0xA1, 0x34], [0xB1, 0x34]].map sole =
      [some (.lda (.imm 0x34)), some (.lda (.mem (.zp0 0x34))), some (.lda (.mem (.zpx 0x34))), some (.lda (.mem (.abs 0x1234))), some (.lda (.mem (.abx 0x1234))), some (.lda (.mem (.aby 0x1234))), some (.lda (.mem (.izx 0x34))), some (.lda (.mem (.izy 0x34)))] := by decide

theorem test_decode_ldx :
    [[0xA2, 0x34], [0xA6, 0x34], [0xB6, 0x34], [0xAE, 0x34, 0x12], [0xBE, 0x34, 0x12]].map sole =
      [some (.ldx (.imm 0x34)), some (.ldx (.mem (.zp0 0x34))), some (.ldx (.mem (.zpy 0x34))), some (.ldx (.mem (.abs 0x1234))), some (.ldx (.mem (.aby 0x1234)))] := by decide

theorem test_decode_ldy :
    [[0xA0, 0x34], [0xA4, 0x34], [0xB4, 0x34], [0xAC, 0x34, 0x12], [0xBC, 0x34, 0x12]].map sole =
      [some (.ldy (.imm 0x34)), some (.ldy (.mem (.zp0 0x34))), some (.ldy (.mem (.zpx 0x34))), some (.ldy (.mem (.abs 0x1234))), some (.ldy (.mem (.abx 0x1234)))] := by decide

theorem test_decode_sta :
    [[0x85, 0x34], [0x95, 0x34], [0x8D, 0x34, 0x12], [0x9D, 0x34, 0x12], [0x99, 0x34, 0x12], [0x81, 0x34], [0x91, 0x34]].map sole =
      [some (.sta (.zp0 0x34)), some (.sta (.zpx 0x34)), some (.sta (.abs 0x1234)), some (.sta (.abx 0x1234)), some (.sta (.aby 0x1234)), some (.sta (.izx 0x34)), some (.sta (.izy 0x34))] := by decide

theorem test_decode_stx :
    [[0x86, 0x34], [0x96, 0x34], [0x8E, 0x34, 0x12]].map sole =
      [some (.stx (.zp0 0x34)), some (.stx (.zpy 0x34)), some (.stx (.abs 0x1234))] := by decide

theorem test_decode_sty :
    [[0x84, 0x34], [0x94, 0x34], [0x8C, 0x34, 0x12]].map sole =
      [some (.sty (.zp0 0x34)), some (.sty (.zpx 0x34)), some (.sty (.abs 0x1234))] := by decide

theorem test_decode_tax :
    [[0xAA]].map sole =
      [some .tax] := by decide

theorem test_decode_tay :
    [[0xA8]].map sole =
      [some .tay] := by decide

theorem test_decode_txa :
    [[0x8A]].map sole =
      [some .txa] := by decide

theorem test_decode_tya :
    [[0x98]].map sole =
      [some .tya] := by decide

theorem test_decode_tsx :
    [[0xBA]].map sole =
      [some .tsx] := by decide

theorem test_decode_txs :
    [[0x9A]].map sole =
      [some .txs] := by decide

theorem test_decode_adc :
    [[0x69, 0x34], [0x65, 0x34], [0x75, 0x34], [0x6D, 0x34, 0x12], [0x7D, 0x34, 0x12], [0x79, 0x34, 0x12], [0x61, 0x34], [0x71, 0x34]].map sole =
      [some (.adc (.imm 0x34)), some (.adc (.mem (.zp0 0x34))), some (.adc (.mem (.zpx 0x34))), some (.adc (.mem (.abs 0x1234))), some (.adc (.mem (.abx 0x1234))), some (.adc (.mem (.aby 0x1234))), some (.adc (.mem (.izx 0x34))), some (.adc (.mem (.izy 0x34)))] := by decide

theorem test_decode_sbc :
    [[0xE9, 0x34], [0xE5, 0x34], [0xF5, 0x34], [0xED, 0x34, 0x12], [0xFD, 0x34, 0x12], [0xF9, 0x34, 0x12], [0xE1, 0x34], [0xF1, 0x34]].map sole =
      [some (.sbc (.imm 0x34)), some (.sbc (.mem (.zp0 0x34))), some (.sbc (.mem (.zpx 0x34))), some (.sbc (.mem (.abs 0x1234))), some (.sbc (.mem (.abx 0x1234))), some (.sbc (.mem (.aby 0x1234))), some (.sbc (.mem (.izx 0x34))), some (.sbc (.mem (.izy 0x34)))] := by decide

theorem test_decode_and :
    [[0x29, 0x34], [0x25, 0x34], [0x35, 0x34], [0x2D, 0x34, 0x12], [0x3D, 0x34, 0x12], [0x39, 0x34, 0x12], [0x21, 0x34], [0x31, 0x34]].map sole =
      [some (.and (.imm 0x34)), some (.and (.mem (.zp0 0x34))), some (.and (.mem (.zpx 0x34))), some (.and (.mem (.abs 0x1234))), some (.and (.mem (.abx 0x1234))), some (.and (.mem (.aby 0x1234))), some (.and (.mem (.izx 0x34))), some (.and (.mem (.izy 0x34)))] := by decide

theorem test_decode_ora :
    [[0x09, 0x34], [0x05, 0x34], [0x15, 0x34], [0x0D, 0x34, 0x12], [0x1D, 0x34, 0x12], [0x19, 0x34, 0x12], [0x01, 0x34], [0x11, 0x34]].map sole =
      [some (.ora (.imm 0x34)), some (.ora (.mem (.zp0 0x34))), some (.ora (.mem (.zpx 0x34))), some (.ora (.mem (.abs 0x1234))), some (.ora (.mem (.abx 0x1234))), some (.ora (.mem (.aby 0x1234))), some (.ora (.mem (.izx 0x34))), some (.ora (.mem (.izy 0x34)))] := by decide

theorem test_decode_eor :
    [[0x49, 0x34], [0x45, 0x34], [0x55, 0x34], [0x4D, 0x34, 0x12], [0x5D, 0x34, 0x12], [0x59, 0x34, 0x12], [0x41, 0x34], [0x51, 0x34]].map sole =
      [some (.eor (.imm 0x34)), some (.eor (.mem (.zp0 0x34))), some (.eor (.mem (.zpx 0x34))), some (.eor (.mem (.abs 0x1234))), some (.eor (.mem (.abx 0x1234))), some (.eor (.mem (.aby 0x1234))), some (.eor (.mem (.izx 0x34))), some (.eor (.mem (.izy 0x34)))] := by decide

theorem test_decode_bit :
    [[0x24, 0x34], [0x2C, 0x34, 0x12]].map sole =
      [some (.bit (.zp0 0x34)), some (.bit (.abs 0x1234))] := by decide

theorem test_decode_cmp :
    [[0xC9, 0x34], [0xC5, 0x34], [0xD5, 0x34], [0xCD, 0x34, 0x12], [0xDD, 0x34, 0x12], [0xD9, 0x34, 0x12], [0xC1, 0x34], [0xD1, 0x34]].map sole =
      [some (.cmp (.imm 0x34)), some (.cmp (.mem (.zp0 0x34))), some (.cmp (.mem (.zpx 0x34))), some (.cmp (.mem (.abs 0x1234))), some (.cmp (.mem (.abx 0x1234))), some (.cmp (.mem (.aby 0x1234))), some (.cmp (.mem (.izx 0x34))), some (.cmp (.mem (.izy 0x34)))] := by decide

theorem test_decode_cpx :
    [[0xE0, 0x34], [0xE4, 0x34], [0xEC, 0x34, 0x12]].map sole =
      [some (.cpx (.imm 0x34)), some (.cpx (.mem (.zp0 0x34))), some (.cpx (.mem (.abs 0x1234)))] := by decide

theorem test_decode_cpy :
    [[0xC0, 0x34], [0xC4, 0x34], [0xCC, 0x34, 0x12]].map sole =
      [some (.cpy (.imm 0x34)), some (.cpy (.mem (.zp0 0x34))), some (.cpy (.mem (.abs 0x1234)))] := by decide

theorem test_decode_inc :
    [[0xE6, 0x34], [0xF6, 0x34], [0xEE, 0x34, 0x12], [0xFE, 0x34, 0x12]].map sole =
      [some (.inc (.zp0 0x34)), some (.inc (.zpx 0x34)), some (.inc (.abs 0x1234)), some (.inc (.abx 0x1234))] := by decide

theorem test_decode_dec :
    [[0xC6, 0x34], [0xD6, 0x34], [0xCE, 0x34, 0x12], [0xDE, 0x34, 0x12]].map sole =
      [some (.dec (.zp0 0x34)), some (.dec (.zpx 0x34)), some (.dec (.abs 0x1234)), some (.dec (.abx 0x1234))] := by decide

theorem test_decode_inx :
    [[0xE8]].map sole =
      [some .inx] := by decide

theorem test_decode_iny :
    [[0xC8]].map sole =
      [some .iny] := by decide

theorem test_decode_dex :
    [[0xCA]].map sole =
      [some .dex] := by decide

theorem test_decode_dey :
    [[0x88]].map sole =
      [some .dey] := by decide

theorem test_decode_asl :
    [[0x0A], [0x06, 0x34], [0x16, 0x34], [0x0E, 0x34, 0x12], [0x1E, 0x34, 0x12]].map sole =
      [some (.asl .acc), some (.asl (.mem (.zp0 0x34))), some (.asl (.mem (.zpx 0x34))), some (.asl (.mem (.abs 0x1234))), some (.asl (.mem (.abx 0x1234)))] := by decide

theorem test_decode_lsr :
    [[0x4A], [0x46, 0x34], [0x56, 0x34], [0x4E, 0x34, 0x12], [0x5E, 0x34, 0x12]].map sole =
      [some (.lsr .acc), some (.lsr (.mem (.zp0 0x34))), some (.lsr (.mem (.zpx 0x34))), some (.lsr (.mem (.abs 0x1234))), some (.lsr (.mem (.abx 0x1234)))] := by decide

theorem test_decode_rol :
    [[0x2A], [0x26, 0x34], [0x36, 0x34], [0x2E, 0x34, 0x12], [0x3E, 0x34, 0x12]].map sole =
      [some (.rol .acc), some (.rol (.mem (.zp0 0x34))), some (.rol (.mem (.zpx 0x34))), some (.rol (.mem (.abs 0x1234))), some (.rol (.mem (.abx 0x1234)))] := by decide

theorem test_decode_ror :
    [[0x6A], [0x66, 0x34], [0x76, 0x34], [0x6E, 0x34, 0x12], [0x7E, 0x34, 0x12]].map sole =
      [some (.ror .acc), some (.ror (.mem (.zp0 0x34))), some (.ror (.mem (.zpx 0x34))), some (.ror (.mem (.abs 0x1234))), some (.ror (.mem (.abx 0x1234)))] := by decide

theorem test_decode_php :
    [[0x08]].map sole =
      [some .php] := by decide

theorem test_decode_pha :
    [[0x48]].map sole =
      [some .pha] := by decide

theorem test_decode_pla :
    [[0x68]].map sole =
      [some .pla] := by decide

theorem test_decode_plp :
    [[0x28]].map sole =
      [some .plp] := by decide

theorem test_decode_bcc :
    [[0x90, 0x34]].map sole =
      [some (.bcc 0x34)] := by decide

theorem test_decode_bcs :
    [[0xB0, 0x34]].map sole =
      [some (.bcs 0x34)] := by decide

theorem test_decode_beq :
    [[0xF0, 0x34]].map sole =
      [some (.beq 0x34)] := by decide

theorem test_decode_bmi :
    [[0x30, 0x34]].map sole =
      [some (.bmi 0x34)] := by decide

theorem test_decode_bne :
    [[0xD0, 0x34]].map sole =
      [some (.bne 0x34)] := by decide

theorem test_decode_bpl :
    [[0x10, 0x34]].map sole =
      [some (.bpl 0x34)] := by decide

theorem test_decode_bvc :
    [[0x50, 0x34]].map sole =
      [some (.bvc 0x34)] := by decide

theorem test_decode_bvs :
    [[0x70, 0x34]].map sole =
      [some (.bvs 0x34)] := by decide

theorem test_decode_jmp :
    [[0x4C, 0x34, 0x12], [0x6C, 0x34, 0x12]].map sole =
      [some (.jmp (.abs 0x1234)), some (.jmp (.ind 0x1234))] := by decide

theorem test_decode_jsr :
    [[0x20, 0x34, 0x12]].map sole =
      [some (.jsr 0x1234)] := by decide

theorem test_decode_rts :
    [[0x60]].map sole =
      [some .rts] := by decide

theorem test_decode_rti :
    [[0x40]].map sole =
      [some .rti] := by decide

theorem test_decode_brk :
    [[0x00]].map sole =
      [some .brk] := by decide

theorem test_decode_clc :
    [[0x18]].map sole =
      [some .clc] := by decide

theorem test_decode_sec :
    [[0x38]].map sole =
      [some .sec] := by decide

theorem test_decode_cli :
    [[0x58]].map sole =
      [some .cli] := by decide

theorem test_decode_sei :
    [[0x78]].map sole =
      [some .sei] := by decide

theorem test_decode_cld :
    [[0xD8]].map sole =
      [some .cld] := by decide

theorem test_decode_sed :
    [[0xF8]].map sole =
      [some .sed] := by decide

theorem test_decode_clv :
    [[0xB8]].map sole =
      [some .clv] := by decide

theorem test_decode_nop :
    [[0xEA]].map sole =
      [some .nop] := by decide

theorem test_decode_unassigned :
    [[0x02], [0x80], [0xEB], [0xFF]].map sole =
      [some (.unassigned 0x02), some (.unassigned 0x80), some (.unassigned 0xEB), some (.unassigned 0xFF)] := by decide

/-- A truncated instruction is refused by name; a word with operand bits left out has zeros there. -/
theorem test_decode_truncated :
    sole [] = none ∧ sole [0xAD, 0x34] = none ∧ decodeTableWord 24 0x1234AD = some (.lda (.mem (.abs 0x1234))) ∧
      decodeTableWord 8 0xAD = some (.lda (.mem (.abs 0x0000))) := by decide

/-! ## The cycle grid of R145: opcode rows 0x0_ to 0xF_, an unassigned cell taking the 2 cycles of R146 -/

/-- The base cycles of the 16 opcodes of a row. -/
def cycleRow (hi : Nat) : List Nat := (List.range 16).map fun lo => (dispatch (BitVec.ofNat 8 (16 * hi + lo)) 0 0).baseCycles

theorem test_cycles_0 :
    [cycleRow 0, cycleRow 1, cycleRow 2, cycleRow 3] =
      [[7, 6, 2, 2, 2, 3, 5, 2, 3, 2, 2, 2, 2, 4, 6, 2],
       [2, 5, 2, 2, 2, 4, 6, 2, 2, 4, 2, 2, 2, 4, 7, 2],
       [6, 6, 2, 2, 3, 3, 5, 2, 4, 2, 2, 2, 4, 4, 6, 2],
       [2, 5, 2, 2, 2, 4, 6, 2, 2, 4, 2, 2, 2, 4, 7, 2]] := by decide

theorem test_cycles_4 :
    [cycleRow 4, cycleRow 5, cycleRow 6, cycleRow 7] =
      [[6, 6, 2, 2, 2, 3, 5, 2, 3, 2, 2, 2, 3, 4, 6, 2],
       [2, 5, 2, 2, 2, 4, 6, 2, 2, 4, 2, 2, 2, 4, 7, 2],
       [6, 6, 2, 2, 2, 3, 5, 2, 4, 2, 2, 2, 5, 4, 6, 2],
       [2, 5, 2, 2, 2, 4, 6, 2, 2, 4, 2, 2, 2, 4, 7, 2]] := by decide

theorem test_cycles_8 :
    [cycleRow 8, cycleRow 9, cycleRow 10, cycleRow 11] =
      [[2, 6, 2, 2, 3, 3, 3, 2, 2, 2, 2, 2, 4, 4, 4, 2],
       [2, 6, 2, 2, 4, 4, 4, 2, 2, 5, 2, 2, 2, 5, 2, 2],
       [2, 6, 2, 2, 3, 3, 3, 2, 2, 2, 2, 2, 4, 4, 4, 2],
       [2, 5, 2, 2, 4, 4, 4, 2, 2, 4, 2, 2, 4, 4, 4, 2]] := by decide

theorem test_cycles_C :
    [cycleRow 12, cycleRow 13, cycleRow 14, cycleRow 15] =
      [[2, 6, 2, 2, 3, 3, 5, 2, 2, 2, 2, 2, 4, 4, 6, 2],
       [2, 5, 2, 2, 2, 4, 6, 2, 2, 4, 2, 2, 2, 4, 7, 2],
       [2, 6, 2, 2, 3, 3, 5, 2, 2, 2, 2, 2, 4, 4, 6, 2],
       [2, 5, 2, 2, 2, 4, 6, 2, 2, 4, 2, 2, 2, 4, 7, 2]] := by decide

/-! ## One instruction on a small state

The start state of 95_test_vectors.md: A = X = Y = 00, SP = FD, P = 20, PC = 8000 with the instruction's bytes there (in
bring-up RAM, so that bytes at the vectors can be placed too). `cycles` is what the instruction puts in the countdown. -/

structure Regs where
  a : Byte
  x : Byte
  y : Byte
  sp : Byte
  p : Byte
  pc : Word
  cycles : Nat
  deriving DecidableEq, Repr

/-- An instruction's bytes at `pc`, about to be fetched. -/
def benchAt (pc : Word) (code : List Byte) : State := placeBytes pc code ((State.reset.setPc pc).setCountdown 0)

def bench (code : List Byte) : State := benchAt 0x8000 code

/-- The state after one instruction has been fetched and executed. -/
def ran (s : State) : State :=
  match executeInstruction s with
  | .next t => t
  | .fault _ | .refused _ => s

def regs (s : State) : Regs := ⟨s.cpu.a, s.cpu.x, s.cpu.y, s.cpu.sp, s.cpu.p, s.cpu.pc, s.cpu.countdown⟩

/-! ### Loads, stores and transfers (vectors 2.1, 2.2 and S3) -/

theorem test_lda_zero :
    regs (ran (((bench [0xA9, 0x00]).setA 0x55).setP 0xA0)) = ⟨0x00, 0x00, 0x00, 0xFD, 0x22, 0x8002, 2⟩ := by decide

theorem test_lda_izx :
    regs (ran (placeByte 0x0234 0x5A (placeByte 0x0000 0x02 (placeByte 0x00FF 0x34 (bench [0xA1, 0xFF]))))) = ⟨0x5A, 0x00, 0x00, 0xFD, 0x20, 0x8002, 6⟩ := by decide

theorem test_ldx_zpy :
    regs (ran ((placeByte 0x0001 0x7F (bench [0xB6, 0xFF])).setY 0x02)) = ⟨0x00, 0x7F, 0x02, 0xFD, 0x20, 0x8002, 4⟩ := by decide

theorem test_ldy_zero :
    regs (ran ((bench [0xA0, 0x00]).setP 0x21)) = ⟨0x00, 0x00, 0x00, 0xFD, 0x23, 0x8002, 2⟩ := by decide

/-- By hand from R178, as the vector BD FF 12. -/
theorem test_ldy_abx :
    regs (ran ((placeByte 0x1300 0x42 (bench [0xBC, 0xFF, 0x12])).setX 0x01)) = ⟨0x00, 0x01, 0x42, 0xFD, 0x20, 0x8003, 4⟩ := by decide

theorem test_sta_mirror :
    let t := ran ((bench [0x8D, 0x00, 0x08]).setA 0x77)
    regs t = ⟨0x77, 0x00, 0x00, 0xFD, 0x20, 0x8003, 4⟩ ∧ busRead 0x0000 t = 0x77 ∧ busRead 0x0800 t = 0x77 := by decide

theorem test_sta_zp :
    let t := ran (((bench [0x85, 0x10]).setA 0xAB).setP 0x22)
    regs t = ⟨0xAB, 0x00, 0x00, 0xFD, 0x22, 0x8002, 3⟩ ∧ busRead 0x0010 t = 0xAB := by decide

/-- By hand from R175 and R204. -/
theorem test_stx_zpy :
    let t := ran (((bench [0x96, 0xFF]).setX 0xC3).setY 0x02)
    regs t = ⟨0x00, 0xC3, 0x02, 0xFD, 0x20, 0x8002, 4⟩ ∧ busRead 0x0001 t = 0xC3 ∧ busRead 0x0101 t = 0x00 := by decide

/-- By hand from R205. -/
theorem test_sty_abs :
    let t := ran (((bench [0x8C, 0x34, 0x02]).setY 0x80).setP 0x22)
    regs t = ⟨0x00, 0x00, 0x80, 0xFD, 0x22, 0x8003, 4⟩ ∧ busRead 0x0234 t = 0x80 := by decide

/-- By hand from R206. -/
theorem test_tax :
    regs (ran ((bench [0xAA]).setA 0x80)) = ⟨0x80, 0x80, 0x00, 0xFD, 0xA0, 0x8001, 2⟩ := by decide

theorem test_tay :
    regs (ran (((bench [0xA8]).setA 0x00).setY 0x05)) = ⟨0x00, 0x00, 0x00, 0xFD, 0x22, 0x8001, 2⟩ := by decide

/-- By hand from R208. -/
theorem test_txa :
    regs (ran ((bench [0x8A]).setA 0x05)) = ⟨0x00, 0x00, 0x00, 0xFD, 0x22, 0x8001, 2⟩ := by decide

/-- By hand from R209. -/
theorem test_tya :
    regs (ran ((bench [0x98]).setY 0x80)) = ⟨0x80, 0x00, 0x80, 0xFD, 0xA0, 0x8001, 2⟩ := by decide

theorem test_tsx :
    regs (ran ((bench [0xBA]).setSp 0x80)) = ⟨0x00, 0x80, 0x00, 0x80, 0xA0, 0x8001, 2⟩ := by decide

theorem test_txs :
    regs (ran ((bench [0x9A]).setX 0x00)) = ⟨0x00, 0x00, 0x00, 0x00, 0x20, 0x8001, 2⟩ := by decide

/-! ### Arithmetic and logic (vectors 2.3) -/

theorem test_adc_all_flags :
    regs (ran ((bench [0x69, 0x80]).setA 0x80)) = ⟨0x00, 0x00, 0x00, 0xFD, 0x63, 0x8002, 2⟩ := by decide

theorem test_adc_decimal_is_binary :
    regs (ran (((bench [0x69, 0x01]).setA 0x09).setP 0x28)) = ⟨0x0A, 0x00, 0x00, 0xFD, 0x28, 0x8002, 2⟩ := by decide

theorem test_sbc_overflow :
    regs (ran (((bench [0xE9, 0x01]).setA 0x80).setP 0x21)) = ⟨0x7F, 0x00, 0x00, 0xFD, 0x61, 0x8002, 2⟩ := by decide

theorem test_sbc_borrow_in :
    regs (ran ((bench [0xE9, 0x03]).setA 0x05)) = ⟨0x01, 0x00, 0x00, 0xFD, 0x21, 0x8002, 2⟩ := by decide

theorem test_and :
    regs (ran ((bench [0x29, 0x0F]).setA 0xF0)) = ⟨0x00, 0x00, 0x00, 0xFD, 0x22, 0x8002, 2⟩ := by decide

/-- By hand from R178, as the vector BD FF FF. -/
theorem test_and_abx_wraps :
    regs (ran (((placeByte 0x0001 0x99 (bench [0x3D, 0xFF, 0xFF])).setA 0xFF).setX 0x02)) = ⟨0x99, 0x02, 0x00, 0xFD, 0xA0, 0x8003, 4⟩ := by decide

theorem test_ora :
    regs (ran ((bench [0x09, 0x80]).setA 0x01)) = ⟨0x81, 0x00, 0x00, 0xFD, 0xA0, 0x8002, 2⟩ := by decide

/-- By hand from R179. -/
theorem test_ora_aby :
    regs (ran ((placeByte 0x1300 0x42 (bench [0x19, 0xFF, 0x12])).setY 0x01)) = ⟨0x42, 0x00, 0x01, 0xFD, 0x20, 0x8003, 4⟩ := by decide

theorem test_eor :
    regs (ran ((bench [0x49, 0xFF]).setA 0xFF)) = ⟨0x00, 0x00, 0x00, 0xFD, 0x22, 0x8002, 2⟩ := by decide

/-- By hand from R182, as the vector B1 FF. -/
theorem test_eor_izy :
    regs (ran ((placeByte 0x0301 0x5A (placeByte 0x0000 0x03 (placeByte 0x00FF 0x00 (bench [0x51, 0xFF])))).setY 0x01)) = ⟨0x5A, 0x00, 0x01, 0xFD, 0x20, 0x8002, 5⟩ := by decide

theorem test_bit_sets :
    regs (ran ((placeByte 0x0010 0xC0 (bench [0x24, 0x10])).setA 0x01)) = ⟨0x01, 0x00, 0x00, 0xFD, 0xE2, 0x8002, 3⟩ := by decide

theorem test_bit_clears :
    regs (ran (((placeByte 0x0010 0x01 (bench [0x24, 0x10])).setA 0x41).setP 0xE2)) = ⟨0x41, 0x00, 0x00, 0xFD, 0x20, 0x8002, 3⟩ := by decide

theorem test_cmp_less :
    regs (ran ((bench [0xC9, 0x41]).setA 0x40)) = ⟨0x40, 0x00, 0x00, 0xFD, 0xA0, 0x8002, 2⟩ := by decide

theorem test_cmp_equal :
    regs (ran ((bench [0xC9, 0x40]).setA 0x40)) = ⟨0x40, 0x00, 0x00, 0xFD, 0x23, 0x8002, 2⟩ := by decide

theorem test_cpx :
    regs (ran ((bench [0xE0, 0x10]).setX 0x90)) = ⟨0x00, 0x90, 0x00, 0xFD, 0xA1, 0x8002, 2⟩ := by decide

theorem test_cpy :
    regs (ran (bench [0xC0, 0xFF])) = ⟨0x00, 0x00, 0x00, 0xFD, 0x20, 0x8002, 2⟩ := by decide

/-! ### Increments, shifts and rotates (vectors 2.4) -/

theorem test_inc :
    let t := ran (placeByte 0x0010 0xFF (bench [0xE6, 0x10]))
    regs t = ⟨0x00, 0x00, 0x00, 0xFD, 0x22, 0x8002, 5⟩ ∧ busRead 0x0010 t = 0x00 := by decide

theorem test_dec :
    let t := ran (bench [0xC6, 0x10])
    regs t = ⟨0x00, 0x00, 0x00, 0xFD, 0xA0, 0x8002, 5⟩ ∧ busRead 0x0010 t = 0xFF := by decide

theorem test_inx :
    regs (ran ((bench [0xE8]).setX 0xFF)) = ⟨0x00, 0x00, 0x00, 0xFD, 0x22, 0x8001, 2⟩ := by decide

/-- By hand from R242. -/
theorem test_iny :
    regs (ran ((bench [0xC8]).setY 0x7F)) = ⟨0x00, 0x00, 0x80, 0xFD, 0xA0, 0x8001, 2⟩ := by decide

/-- By hand from R243. -/
theorem test_dex :
    regs (ran ((bench [0xCA]).setX 0x01)) = ⟨0x00, 0x00, 0x00, 0xFD, 0x22, 0x8001, 2⟩ := by decide

theorem test_dey :
    regs (ran (bench [0x88])) = ⟨0x00, 0x00, 0xFF, 0xFD, 0xA0, 0x8001, 2⟩ := by decide

theorem test_asl_a :
    regs (ran ((bench [0x0A]).setA 0x80)) = ⟨0x00, 0x00, 0x00, 0xFD, 0x23, 0x8001, 2⟩ := by decide

theorem test_asl_zp :
    let t := ran (placeByte 0x0010 0x41 (bench [0x06, 0x10]))
    regs t = ⟨0x00, 0x00, 0x00, 0xFD, 0xA0, 0x8002, 5⟩ ∧ busRead 0x0010 t = 0x82 := by decide

theorem test_lsr_a :
    regs (ran ((bench [0x4A]).setA 0x01)) = ⟨0x00, 0x00, 0x00, 0xFD, 0x23, 0x8001, 2⟩ := by decide

theorem test_rol_a :
    regs (ran (((bench [0x2A]).setA 0x80).setP 0x21)) = ⟨0x01, 0x00, 0x00, 0xFD, 0x21, 0x8001, 2⟩ := by decide

theorem test_ror_a :
    regs (ran (((bench [0x6A]).setA 0x01).setP 0x21)) = ⟨0x80, 0x00, 0x00, 0xFD, 0xA1, 0x8001, 2⟩ := by decide

theorem test_ror_zpx :
    let t := ran ((placeByte 0x0011 0x02 (bench [0x76, 0x10])).setX 0x01)
    regs t = ⟨0x00, 0x01, 0x00, 0xFD, 0x20, 0x8002, 6⟩ ∧ busRead 0x0011 t = 0x01 := by decide

/-! ### Stack (vectors 2.5) -/

theorem test_pha_wraps :
    let t := ran (((bench [0x48]).setA 0xAA).setSp 0x00)
    regs t = ⟨0xAA, 0x00, 0x00, 0xFF, 0x20, 0x8001, 3⟩ ∧ busRead 0x0100 t = 0xAA := by decide

theorem test_php :
    let t := ran (bench [0x08])
    regs t = ⟨0x00, 0x00, 0x00, 0xFC, 0x20, 0x8001, 3⟩ ∧ busRead 0x01FD t = 0x30 := by decide

theorem test_pla_wraps :
    regs (ran ((placeByte 0x0100 0x80 (bench [0x68])).setSp 0xFF)) = ⟨0x80, 0x00, 0x00, 0x00, 0xA0, 0x8001, 4⟩ := by decide

theorem test_plp :
    regs (ran (placeByte 0x01FE 0xFF (bench [0x28]))) = ⟨0x00, 0x00, 0x00, 0xFE, 0xEF, 0x8001, 4⟩ := by decide

/-! ### Control transfer (vectors 2.6) -/

theorem test_bne_taken :
    regs (ran (bench [0xD0, 0x05])) = ⟨0x00, 0x00, 0x00, 0xFD, 0x20, 0x8007, 3⟩ := by decide

theorem test_bne_not_taken :
    regs (ran ((bench [0xD0, 0x05]).setP 0x22)) = ⟨0x00, 0x00, 0x00, 0xFD, 0x22, 0x8002, 2⟩ := by decide

theorem test_beq_back_over_page :
    regs (ran ((bench [0xF0, 0xFC]).setP 0x22)) = ⟨0x00, 0x00, 0x00, 0xFD, 0x22, 0x7FFE, 4⟩ := by decide

theorem test_bcc_over_page :
    regs (ran (benchAt 0x80F0 [0x90, 0x7F])) = ⟨0x00, 0x00, 0x00, 0xFD, 0x20, 0x8171, 4⟩ := by decide

/-- By hand from R320 and R322. -/
theorem test_bcs :
    regs (ran ((bench [0xB0, 0x10]).setP 0x21)) = ⟨0x00, 0x00, 0x00, 0xFD, 0x21, 0x8012, 3⟩ := by decide

theorem test_bmi :
    regs (ran ((bench [0x30, 0x80]).setP 0xA0)) = ⟨0x00, 0x00, 0x00, 0xFD, 0xA0, 0x7F82, 4⟩ := by decide

theorem test_bvs :
    regs (ran ((benchAt 0x80FC [0x70, 0x02]).setP 0x60)) = ⟨0x00, 0x00, 0x00, 0xFD, 0x60, 0x8100, 4⟩ := by decide

/-- By hand from R320 and R327. -/
theorem test_bvc_not_taken :
    regs (ran ((bench [0x50, 0x02]).setP 0x60)) = ⟨0x00, 0x00, 0x00, 0xFD, 0x60, 0x8002, 2⟩ := by decide

theorem test_bpl_zero :
    regs (ran (bench [0x10, 0x00])) = ⟨0x00, 0x00, 0x00, 0xFD, 0x20, 0x8002, 3⟩ := by decide

theorem test_jmp :
    regs (ran (bench [0x4C, 0x34, 0x12])) = ⟨0x00, 0x00, 0x00, 0xFD, 0x20, 0x1234, 3⟩ := by decide

theorem test_jmp_indirect_page :
    regs (ran (placeByte 0x1100 0x56 (placeByte 0x1000 0x12 (placeByte 0x10FF 0x34 (bench [0x6C, 0xFF, 0x10]))))) = ⟨0x00, 0x00, 0x00, 0xFD, 0x20, 0x1234, 5⟩ := by decide

theorem test_jsr :
    let t := ran (bench [0x20, 0x00, 0x90])
    regs t = ⟨0x00, 0x00, 0x00, 0xFB, 0x20, 0x9000, 6⟩ ∧ busRead 0x01FD t = 0x80 ∧ busRead 0x01FC t = 0x02 := by decide

theorem test_jsr_at_top :
    let t := ran (benchAt 0xFFFD [0x20, 0x00, 0x80])
    regs t = ⟨0x00, 0x00, 0x00, 0xFB, 0x20, 0x8000, 6⟩ ∧ busRead 0x01FD t = 0xFF ∧ busRead 0x01FC t = 0xFF := by decide

theorem test_rts :
    regs (ran ((placeByte 0x01FD 0x80 (placeByte 0x01FC 0x02 (bench [0x60]))).setSp 0xFB)) = ⟨0x00, 0x00, 0x00, 0xFD, 0x20, 0x8003, 6⟩ := by decide

theorem test_rti :
    regs (ran ((placeByte 0x01FD 0x12 (placeByte 0x01FC 0x34 (placeByte 0x01FB 0xC3 (bench [0x40])))).setSp 0xFA)) = ⟨0x00, 0x00, 0x00, 0xFD, 0xE3, 0x1234, 6⟩ := by decide

theorem test_brk :
    let t := ran ((placeByte 0xFFFF 0x90 (placeByte 0xFFFE 0x00 (bench [0x00]))).setP 0xA1)
    regs t = ⟨0x00, 0x00, 0x00, 0xFA, 0xA5, 0x9000, 7⟩ ∧ busRead 0x01FD t = 0x80 ∧ busRead 0x01FC t = 0x02 ∧ busRead 0x01FB t = 0xB1 := by decide

/-! ### Flags, NOP and unassigned opcodes (vectors 2.7) -/

theorem test_clc :
    regs (ran ((bench [0x18]).setP 0x21)) = ⟨0x00, 0x00, 0x00, 0xFD, 0x20, 0x8001, 2⟩ := by decide

theorem test_sec :
    regs (ran ((bench [0x38]).setP 0x20)) = ⟨0x00, 0x00, 0x00, 0xFD, 0x21, 0x8001, 2⟩ := by decide

theorem test_cli :
    regs (ran ((bench [0x58]).setP 0x24)) = ⟨0x00, 0x00, 0x00, 0xFD, 0x20, 0x8001, 2⟩ := by decide

theorem test_sei :
    regs (ran ((bench [0x78]).setP 0x20)) = ⟨0x00, 0x00, 0x00, 0xFD, 0x24, 0x8001, 2⟩ := by decide

theorem test_cld :
    regs (ran ((bench [0xD8]).setP 0x28)) = ⟨0x00, 0x00, 0x00, 0xFD, 0x20, 0x8001, 2⟩ := by decide

theorem test_sed :
    regs (ran ((bench [0xF8]).setP 0x20)) = ⟨0x00, 0x00, 0x00, 0xFD, 0x28, 0x8001, 2⟩ := by decide

theorem test_clv :
    regs (ran ((bench [0xB8]).setP 0x60)) = ⟨0x00, 0x00, 0x00, 0xFD, 0x20, 0x8001, 2⟩ := by decide

theorem test_nop :
    regs (ran (bench [0xEA])) = ⟨0x00, 0x00, 0x00, 0xFD, 0x20, 0x8001, 2⟩ := by decide

theorem test_unassigned :
    regs (ran (bench [0x02, 0x10])) = ⟨0x00, 0x00, 0x00, 0xFD, 0x20, 0x8001, 2⟩ := by decide

theorem test_unassigned_refuses :
    (match executeInstruction { bench [0xFF] with params := { Params.default with illegalPolicy := .refuse } } with
     | .refused r => some r
     | .next _ | .fault _ => none) = some (.illegalOpcode 0xFF) := by decide

/-! ## Interrupts, reset, placing an instruction (vectors 2.8) -/

theorem test_nmi_entry :
    let s := placeByte 0xFFFB 0x90 ((State.reset.setPc 0x8150).setP 0x23)
    let t := enterNmi s
    regs t = ⟨0x00, 0x00, 0x00, 0xFA, 0x27, 0x9000, 7⟩ ∧ busRead 0x01FD t = 0x81 ∧ busRead 0x01FC t = 0x50 ∧
      busRead 0x01FB t = 0x23 := by decide

/-- State.reset is the power-on of R571 for the choice of log 2. -/
theorem test_reset_is_power_on :
    powerOn Params.default none ⟨[], [], [], [], [], []⟩ = .next State.reset := rfl

/-- The reset vector through a one-bank cartridge is read at PRG offsets 3FFC and 3FFD (R528). -/
theorem test_reset_vector :
    let c : Cartridge :=
      { mapper := .fixed, prgBanks := .one, chrBanks := 1, mirroring := .horizontal, prg := [(0x3FFD, 0x80)], chr := []
        chrBank := 0 }
    regs (systemReset (State.reset.setCart (some c))) = ⟨0x00, 0x00, 0x00, 0xFD, 0x20, 0x8000, 7⟩ := by decide

theorem test_withFetchWord :
    (match step (State.reset.withFetchWord 16 0x80A9) with
     | .next t => some (regs t)
     | .fault _ | .refused _ => none) = some ⟨0x80, 0x00, 0x00, 0xFD, 0xA0, 0x0002, 1⟩ := by decide

/-! ## Bus, cartridge and controllers (vectors 2.11, S5, S9) -/

/-- A cartridge with empty ROM and the given CHR. -/
def cartridge (m : Mapper) (banks : Nat) (mirror : Mirroring) (chr : Memory) : Cartridge :=
  { mapper := m, prgBanks := .one, chrBanks := banks, mirroring := mirror, prg := [], chr := chr, chrBank := 0 }

theorem test_ram_mirror : busRead 0x07FF (busWrite 0x1FFF 0x5A State.reset) = 0x5A := by decide

theorem test_nothing_reads_zero :
    busRead 0x4015 State.reset = 0 ∧ busRead 0x5000 State.reset = 0 ∧ busWrite 0x6000 0x12 State.reset = State.reset := by
  decide

theorem test_bank_switch :
    let c := cartridge .switchableChr 4 .horizontal [(0, 0x11), (0x2000, 0x22), (0x4000, 0x33), (0x6000, 0x44)]
    let s := State.reset.setCart (some c)
    [(0x8000, 0x00), (0x8000, 0x01), (0xC123, 0x02), (0xFFFF, 0x03), (0x8000, 0x05)].map
        (fun w => ppuRead (busWrite w.1 w.2 s).cart s.ppu 0x0000) =
      [(0x11 : Byte), 0x22, 0x33, 0x44, 0x22] := by decide

theorem test_nametable_mirroring :
    let t := fun m => ppuWrite 0x2000 0xAB (State.reset.setCart (some (cartridge .fixed 1 m [])))
    [0x2400, 0x2800, 0x3000].map (fun a => ppuRead (t .horizontal).cart (t .horizontal).ppu a) = [(0xAB : Byte), 0, 0xAB] ∧
      [0x2400, 0x2800, 0x3000].map (fun a => ppuRead (t .vertical).cart (t .vertical).ppu a) = [(0 : Byte), 0xAB, 0xAB] := by
  decide

theorem test_controller_reads :
    let s := busWrite 0x4016 0x00 (busWrite 0x4016 0x01 (setButtons .zero 0xA5 State.reset))
    (List.range 10).map (fun n => busRead 0x4016 ((afterRead 0x4016)^[n] s)) =
      [(1 : Byte), 0, 1, 0, 0, 1, 0, 1, 1, 1] := by decide

/-! ## PPU registers and rendering (vectors 2.9, 2.10) -/

/-- The PPU after reset, at a scanline and a dot. -/
def ppuAt (s : Fin 262) (d : Fin 341) : Ppu := { Ppu.reset [] [] [] [] with scanline := s, dot := d }

theorem test_status_read :
    let s := State.reset.setPpu { State.reset.ppu with vblank := true, sprite0Hit := true, dataBuffer := 0xAB, w := true }
    let t := afterRead 0x2002 s
    busRead 0x2002 s = 0xCB ∧ t.ppu.vblank = false ∧ t.ppu.w = false ∧ t.ppu.sprite0Hit = true := by decide

theorem test_scroll_writes :
    let t := busWrite 0x2005 0x5E (busWrite 0x2005 0x7D State.reset)
    t.ppu.t = 0x616F ∧ t.ppu.x = 5 ∧ t.ppu.w = false := by decide

theorem test_address_writes :
    let u := busWrite 0x2006 0xFF (State.reset.setPpu { State.reset.ppu with t := 0x7FFF })
    let t := busWrite 0x2006 0x12 u
    u.ppu.t = 0x3FFF ∧ t.ppu.t = 0x3F12 ∧ t.ppu.v = 0x3F12 ∧ t.ppu.w = false := by decide

theorem test_data_write_palette :
    let t := busWrite 0x2007 0x0D (State.reset.setPpu { State.reset.ppu with v := 0x3F1F, ctrl := 0x04 })
    Cells.read t.ppu.palette 0x1F = 0x0D ∧ t.ppu.v = 0x3F3F := by decide

theorem test_data_read_palette :
    let s := State.reset.setPpu { State.reset.ppu with v := 0x3F10, palette := [(0, 0x0F)] }
    busRead 0x2007 s = 0x0F ∧ (afterRead 0x2007 s).ppu.dataBuffer = 0x0F ∧ (afterRead 0x2007 s).ppu.v = 0x3F11 := by decide

theorem test_scroll_steps :
    [incXOf 0x0005, incXOf 0x001F, incXOf 0x041F] = [(0x0006 : BitVec 15), 0x0400, 0x0000] ∧
      [0x0000, 0x7000, 0x73A0, 0x7BA0, 0x73E0, 0x7FE0].map incYOf =
        [(0x1000 : BitVec 15), 0x0020, 0x0800, 0x0000, 0x0000, 0x0C00] ∧
      copyXOf 0x7FFF 0x0000 = 0x7BE0 ∧ copyYOf 0x7FFF 0x0000 = 0x041F := by decide

theorem test_attribute_address : attrAddress 0x0042 = 0x23C0 ∧ attrAddress 0x0C00 = 0x2FC0 := by decide

/-- Tile byte 03 in 8×16 at row 9: low-plane address 1031. -/
theorem test_sprite_address :
    spriteAddress { ppuAt 18 320 with ctrl := 0x20 } ⟨10, 0x03, 0x00, 0x00⟩ = 0x1031 := by decide

/-- Eight entries on the next line set the overflow flag; seven do not. -/
theorem test_sprite_overflow :
    let oam := fun n => Cells.ofList 0 ((List.replicate n [(0x0A : Byte), 0, 0, 0]).flatten ++ List.replicate (256 - 4 * n) 0xFF)
    (ppuDot none { ppuAt 10 257 with oam := oam 8 }).spriteOverflow = true ∧
      (ppuDot none { ppuAt 10 257 with oam := oam 7 }).spriteOverflow = false := by decide +kernel

theorem test_pre_render_clear :
    let q := ppuDot none { ppuAt 261 1 with vblank := true, sprite0Hit := true, spriteOverflow := true }
    q.vblank = false ∧ q.sprite0Hit = false ∧ q.spriteOverflow = false := by decide

/-! ## For every claim with hypotheses, a state and operands that meet them, clause by clause at the ends of their ranges -/

/-- A machine about to fetch a three-byte instruction in this very tick. -/
def ready : State := State.reset.withFetchWord 24 0x1234AD

theorem reset_inv : State.reset.inv = true := by decide

theorem witness_DecodeAndEncodeAgree :
    (Instr.lda (.mem (.abs 0x1234))).wellFormed = true ∧
      decode [0xAD, 0x34, 0x12, 0xFF] = .ok (.lda (.mem (.abs 0x1234)), [0xFF]) := ⟨by decide, rfl⟩

/-- The first and the last unassigned opcode, and a well-formed instruction of the most base cycles. -/
theorem witness_OpcodeAloneSelectsTheEntry :
    (0x02 : Byte).toNat ∈ unassignedOpcodes ∧ (0xFF : Byte).toNat ∈ unassignedOpcodes ∧
      (Instr.inc (.abx 0x1234)).wellFormed = true := by decide

/-- The last address, and the first behind it, hold code; so does the end of RAM. -/
theorem witness_FetchReadsTheBytesAtPc :
    let s := benchAt 0xFFFE [0xAD, 0x34, 0x12]
    let r := benchAt 0x1FFD [0xAD, 0x34, 0x12]
    (∀ k, k ≤ operandCount (busRead s.cpu.pc s) → canHoldCode (s.cpu.pc + BitVec.ofNat 16 k) = true) ∧
      (∀ k, k ≤ operandCount (busRead r.cpu.pc r) → canHoldCode (r.cpu.pc + BitVec.ofNat 16 k) = true) := by decide

theorem witness_StepRunsTheDecodedInstruction :
    atBoundary ready ∧ (cpuCycleState ready).cpu.nmiPending = false ∧
      sole (fetchInstruction (cpuCycleState ready)).bytes = some (.lda (.mem (.abs 0x1234))) :=
  ⟨⟨by decide, by decide⟩, by decide, by decide⟩

/-- Between CPU cycles, and at a CPU cycle inside an instruction. -/
theorem witness_TickWithoutAnInstruction :
    ¬ atBoundary (State.reset.setClock 1) ∧ ¬ atBoundary (State.reset.setCountdown 1) :=
  ⟨fun h => absurd h.1 (by decide), fun h => absurd h.2 (by decide)⟩

theorem witness_NmiIsServicedAtTheBoundary :
    (atBoundary (ready.setNmiPending true) ∧ (cpuCycleState (ready.setNmiPending true)).cpu.nmiPending = true) ∧
      (atBoundary ready ∧ (cpuCycleState ready).cpu.nmiPending = false) ∧
      (0 < (State.reset.setCountdown 1).cpu.countdown ∧
        ((State.reset.setCountdown 1).setNmiPending true).cpu.nmiPending = true) :=
  ⟨⟨⟨by decide, by decide⟩, by decide⟩, ⟨⟨by decide, by decide⟩, by decide⟩, by decide, by decide⟩

theorem witness_NmiEntry : State.reset.inv = true := reset_inv
theorem witness_BreakIsASoftwareInterrupt : State.reset.inv = true := reset_inv
theorem witness_JumpToSubroutine : State.reset.inv = true := reset_inv
theorem witness_StoresWriteTheAddress : State.reset.inv = true := reset_inv
theorem witness_IncrementsOfMemory : State.reset.inv = true := reset_inv
theorem witness_ShiftsMoveOneBit : State.reset.inv = true := reset_inv
theorem witness_PushesStoreAtSp : State.reset.inv = true := reset_inv

/-- SP wraps between the three slots, and the handler has changed A and N. -/
theorem witness_HandlerReturnRestoresPAndPc :
    let s := State.reset.setSp 0x01
    let h := ((enterNmi s).setA 0x80).setP 0xA4
    s.inv = true ∧ h.cpu.sp = (enterNmi s).cpu.sp ∧ h.cpu.sp = 0xFE ∧
      (∀ sp ∈ [s.cpu.sp, s.cpu.sp - 1, s.cpu.sp - 2], stackByte sp h = stackByte sp (enterNmi s)) ∧
      ∃ u, exec .brk s = .next u ∧ (u.setA 0x80).cpu.sp = u.cpu.sp ∧
        ∀ sp ∈ [s.cpu.sp, s.cpu.sp - 1, s.cpu.sp - 2], stackByte sp (u.setA 0x80) = stackByte sp u :=
  ⟨by decide, by decide, by decide, by decide, _, rfl, by decide, by decide⟩

theorem witness_UnassignedOpcodesDoNothing :
    ((0x02 : Byte).toNat ∈ unassignedOpcodes ∧ State.reset.params.illegalPolicy = .nop) ∧
      ((0xFF : Byte).toNat ∈ unassignedOpcodes ∧
        { State.reset.params with illegalPolicy := IllegalPolicy.refuse }.illegalPolicy = .refuse) := by decide

theorem witness_PageCrossPenalty :
    State.reset.params.pageCrossPenalty = false ∧
      ({ State.reset with params := { Params.default with pageCrossPenalty := true } } : State).params.pageCrossPenalty = true := by
  decide

/-- Cartridges whose invariant holds: CHR ROM, CHR RAM, and four switchable banks with the last selected. -/
def romCart : Cartridge := cartridge .fixed 1 .horizontal []
def ramCart : Cartridge := cartridge .fixed 0 .vertical []
def bankCart : Cartridge := { cartridge .switchableChr 4 .horizontal [(0x7FFF, 0x44)] with chrBank := 3 }

theorem witness_inv_with_a_cartridge :
    [romCart, ramCart, bankCart].all (fun c => (State.reset.setCart (some c)).inv) = true := by decide

/-- The ends of every range, with each kind of cartridge, and an address without a read side effect. -/
theorem witness_BusReadAndWriteDecode :
    [(0x0000 : Word), 0x1FFF].all (fun a => decide (a.toNat ≤ 0x1FFF)) = true ∧
      [(0x2000 : Word), 0x3FFF].all (fun a => decide (0x2000 ≤ a.toNat ∧ a.toNat ≤ 0x3FFF)) = true ∧
      [(0x4000 : Word), 0x4013, 0x4015, 0x4018, 0x7FFF].all (fun a => decide (0x4000 ≤ a.toNat ∧ a.toNat ≤ 0x7FFF ∧
        a.toNat ≠ 0x4014 ∧ a.toNat ≠ 0x4016 ∧ a.toNat ≠ 0x4017)) = true ∧
      [(0x8000 : Word), 0xFFFF].all (fun a => decide (0x8000 ≤ a.toNat)) = true ∧
      State.reset.cart = none ∧ romCart.mapper = .fixed ∧ bankCart.mapper = .switchableChr ∧
      (¬ isRegister 2 0x4000 ∧ ¬ isRegister 7 0x4000) := by
  refine ⟨by decide, by decide, by decide, by decide, rfl, rfl, rfl, ?_, ?_⟩ <;> (rintro ⟨-, h, -⟩; revert h; decide)

/-- The ends of the pattern, nametable and palette ranges; a write that takes effect and one that is lost; a cell with a
second name in each range, and two addresses of different cells. -/
theorem witness_PpuAddressSpace :
    ((0x1FFF : BitVec 14).toNat ≤ 0x1FFF ∧ State.reset.cart = none) ∧
      (0x2000 ≤ (0x2000 : BitVec 14).toNat ∧ (0x3EFF : BitVec 14).toNat ≤ 0x3EFF) ∧
      (0x3F00 ≤ (0x3F00 : BitVec 14).toNat ∧ 0x3F00 ≤ (0x3FFF : BitVec 14).toNat) ∧
      ppuWritable (some ramCart) 0x1FFF ∧ ppuWritable none 0x2000 ∧ ¬ ppuWritable (some romCart) 0x1FFF ∧
      samePpuCell .horizontal 0x1FFF 0x1FFF ∧ samePpuCell .horizontal 0x2000 0x2400 ∧ samePpuCell .vertical 0x2EFF 0x3EFF ∧
      samePpuCell .vertical 0x3F10 0x3FE0 ∧ ¬ samePpuCell .vertical 0x2000 0x2400 := by
  refine ⟨by decide, by decide, by decide, .inr ⟨_, rfl, rfl⟩, .inl (by decide), ?_, .inl (by decide),
    .inr (.inl (by decide)), .inr (.inl (by decide)), .inr (.inr (by decide)), ?_⟩
  · rintro (h | ⟨c, hc, h⟩)
    · exact absurd h (by decide)
    · cases hc; exact absurd h (by decide)
  · unfold samePpuCell; decide

/-- Pages at the edges of the range without a device. -/
theorem witness_OamDmaCopiesAPage :
    State.reset.inv = true ∧ (0x1F : Byte).toNat < 0x20 ∧ 0x40 < (0x41 : Byte).toNat := by decide

theorem witness_ControllerProtocol :
    (State.reset.setCtl { State.reset.ctl with strobe := true }).ctl.strobe = true ∧ State.reset.ctl.strobe = false :=
  ⟨rfl, rfl⟩

/-- Each register at the first and the last of its mirrors. -/
theorem witness_isRegister :
    ∀ r, r < 8 → isRegister r (BitVec.ofNat 16 (0x2000 + r)) ∧ isRegister r (BitVec.ofNat 16 (0x3FF8 + r)) := by
  unfold isRegister; decide

theorem witness_StatusReadAndWriteOnlyRegisters :
    isRegister 2 0x3FFA ∧ ∀ r ∈ [0, 1, 3, 5, 6], isRegister r (BitVec.ofNat 16 (0x2000 + r)) :=
  ⟨(witness_isRegister 2 (by decide)).2, by unfold isRegister; decide⟩

theorem witness_ControlAndOamRegisters :
    State.reset.inv = true ∧ isRegister 0 0x2000 ∧ isRegister 1 0x3FF9 ∧ isRegister 3 0x2003 ∧ isRegister 4 0x3FFC := by
  unfold isRegister; decide

theorem witness_ScrollAndAddressWrites :
    isRegister 5 0x2005 ∧ isRegister 6 0x3FFE ∧ State.reset.ppu.w = false ∧
      (State.reset.setPpu { State.reset.ppu with w := true }).ppu.w = true := by unfold isRegister; decide

/-- v at the last address read through the buffer, at the first of the palette, and at the largest v, which wraps. -/
theorem witness_DataRegisterAccess :
    isRegister 7 0x2007 ∧ isRegister 7 0x3FFF ∧ (0x3EFF : BitVec 15).toNat % 0x4000 < 0x3F00 ∧
      0x3F00 ≤ (0x3F00 : BitVec 15).toNat % 0x4000 ∧ 0x3F00 ≤ (0x7FFF : BitVec 15).toNat % 0x4000 := by
  unfold isRegister; decide

/-- A line with rendering on and one with it off; a line that is no render line. -/
theorem witness_DotMovesVAndLeavesTheRegisters :
    (∀ p ∈ [ppuAt 0 256, ppuAt 239 256, ppuAt 261 256], p.onRenderLine) ∧
      ({ ppuAt 0 256 with mask := 0x08 } : Ppu).rendering = true ∧ (ppuAt 0 256).rendering = false ∧
      (∀ p ∈ [ppuAt 240 256, ppuAt 260 256], ¬ p.onRenderLine) := by unfold Ppu.onRenderLine; decide

/-- The two dots that act, and a dot and a line beside each. -/
theorem witness_VBlankAndPreRenderClear :
    ((ppuAt 241 1).scanline.val = 241 ∧ (ppuAt 241 1).dot.val = 1 ∧ (ppuAt 261 1).scanline.val = 261) ∧
      ∀ p ∈ [ppuAt 241 0, ppuAt 241 2, ppuAt 261 0, ppuAt 261 2, ppuAt 240 1, ppuAt 260 1],
        ¬ (p.dot.val = 1 ∧ (p.scanline.val = 241 ∨ p.scanline.val = 261)) := by decide

/-- The first and last dots with a fetch, with every stage among the first eight; the dots beside them. -/
theorem witness_BackgroundPipeline :
    (∀ p ∈ [1, 2, 3, 4, 5, 6, 7, 8, 256, 321, 336].map (ppuAt 239), p.onRenderLine ∧ p.onFetchDot) ∧
      (∀ p ∈ ppuAt 240 1 :: [0, 257, 320, 337, 340].map (ppuAt 239), ¬ (p.onRenderLine ∧ p.onFetchDot)) := by
  unfold Ppu.onRenderLine Ppu.onFetchDot; decide

theorem witness_SpriteEvaluation :
    (∀ p ∈ [ppuAt 0 257, ppuAt 239 257, ppuAt 261 257], p.onRenderLine ∧ p.dot.val = 257) ∧
      ∀ p ∈ [ppuAt 239 256, ppuAt 239 258, ppuAt 240 257, ppuAt 260 257], ¬ (p.onRenderLine ∧ p.dot.val = 257) := by
  unfold Ppu.onRenderLine; decide

/-- A sprite at the first and at the last of its rows, in both heights; line 261 draws into line 0; a slot not in use; the
dots and lines beside those that change a pattern register. -/
theorem witness_SpriteFetch :
    let used := fun (s : Fin 262) (ctrl y : Byte) =>
      ({ ppuAt s 320 with ctrl := ctrl, spriteCount := 1, oam2 := Vector.replicate 8 ⟨y, 0, 0, 0⟩ } : Ppu)
    let shown := fun (p : Ppu) =>
      p.onRenderLine ∧ p.dot.val = 320 ∧ (0 : Fin 8).val < p.spriteCount.val ∧
        p.oam2[(0 : Fin 8)].y.toNat ≤ (p.scanline.val + 1) % 262 ∧
        (p.scanline.val + 1) % 262 < p.oam2[(0 : Fin 8)].y.toNat + (if p.ctrl.getLsbD 5 then 16 else 8)
    shown (used 99 0x00 100) ∧ shown (used 106 0x00 100) ∧ shown (used 114 0x20 100) ∧ shown (used 261 0x00 0) ∧
      (used 99 0x00 100).spriteCount.val ≤ (1 : Fin 8).val ∧
      ∀ p ∈ [ppuAt 239 319, ppuAt 239 321, ppuAt 240 320, ppuAt 260 320, ppuAt 261 0, ppuAt 261 2, ppuAt 260 1],
        ¬ (p.onRenderLine ∧ p.dot.val = 320) ∧ ¬ (p.scanline.val = 261 ∧ p.dot.val = 1) := by unfold Ppu.onRenderLine; decide

/-- Sprite rendering off; on with a transparent slot 0 before a visible slot 1, at the first and the last column of the
sprite; on with no slot in use. -/
theorem witness_SpritePixelIsTheFirst :
    let p := ({ ppuAt 10 1 with
      mask := 0x10, spriteCount := 2, sprLo := Vector.ofFn fun k => if k = 1 then 0x81 else 0x00
      oam2 := Vector.replicate 8 ⟨0, 0, 0, 100⟩ } : Ppu)
    let shows := fun (p : Ppu) (d : Nat) (k : Fin 8) =>
      k.val < p.spriteCount.val ∧ p.oam2[k].x.toNat ≤ d - 1 ∧ d - 1 ≤ p.oam2[k].x.toNat + 7 ∧
        (p.sprHi[k].getLsbD (7 - (d - 1 - p.oam2[k].x.toNat)) = true ∨
          p.sprLo[k].getLsbD (7 - (d - 1 - p.oam2[k].x.toNat)) = true)
    (ppuAt 10 1).mask.getLsbD 4 = false ∧ p.mask.getLsbD 4 = true ∧
      (∀ d ∈ [101, 108], shows p d 1 ∧ ∀ j, j < 1 → ¬ shows p d j) ∧ (∀ d ∈ [100, 109], ∀ k, ¬ shows p d k) := by decide

/-- Each of the four ways a pixel is chosen: backdrop, background alone, sprite in front, sprite behind; the hit at the
first column with the left columns shown and at the ninth without. -/
theorem witness_PixelOutput :
    let p := fun (mask attr bg : Byte) (x : Byte) =>
      ({ ppuAt 10 1 with
        mask := mask, spriteCount := 1, sprLo := Vector.replicate 8 0xFF, sprite0InLine := true
        oam2 := Vector.replicate 8 ⟨0, 0, attr, x⟩, bgPatLo := zext16 bg <<< 8 } : Ppu)
    let bp := fun (p : Ppu) => pair (p.bgPatHi.getLsbD (15 - p.x.toNat)) (p.bgPatLo.getLsbD (15 - p.x.toNat))
    (∀ c ∈ [p 0x1E 0x00 0x80 0, p 0x1E 0x20 0x80 0, p 0x1E 0x00 0x00 0, p 0x18 0x00 0x80 8], c.inv = true) ∧
      (spritePixel (p 0x08 0x00 0x00 0) 1 = none ∧ bp (p 0x08 0x00 0x00 0) = 0) ∧
      (spritePixel (p 0x08 0x00 0x80 0) 1 = none ∧ bp (p 0x08 0x00 0x80 0) ≠ 0) ∧
      (spritePixel (p 0x1E 0x00 0x80 0) 1).map SpritePixel.behind = some false ∧
      ((spritePixel (p 0x1E 0x20 0x80 0) 1).map SpritePixel.behind = some true ∧ bp (p 0x1E 0x20 0x80 0) ≠ 0) ∧
      (composePixel none 10 1 (p 0x1E 0x00 0x80 0)).sprite0Hit = true ∧
      (composePixel none 10 9 (p 0x18 0x00 0x80 8)).sprite0Hit = true ∧
      (composePixel none 10 8 (p 0x18 0x00 0x80 7)).sprite0Hit = false := by decide

/-- The first step from reset, and one that runs an instruction. -/
theorem witness_a_step :
    (∃ t, step State.reset = .next t ∧ t.clockCounter = 1 ∧ t.cpu.countdown = 6) ∧
      ∃ t, step ready = .next t ∧ t.cpu.pc = 0x0003 := ⟨⟨_, rfl, by decide, by decide⟩, ⟨_, rfl, by decide⟩⟩

theorem witness_EveryStepIsOneDot : ∃ t, step ready = .next t := witness_a_step.2.imp fun _ h => h.1

theorem witness_StepKeepsTheInvariant : ready.inv = true ∧ ∃ t, step ready = .next t :=
  ⟨by decide, witness_EveryStepIsOneDot⟩

theorem witness_CountdownStaysBounded : ready.cpu.countdown ≤ maxCountdown ∧ ∃ t, step ready = .next t :=
  ⟨by decide, witness_EveryStepIsOneDot⟩

theorem witness_StepKeepsTheConstants : ∃ t, step ready = .next t := witness_EveryStepIsOneDot

theorem witness_AFrameIs89342Ticks : State.reset.params.illegalPolicy = .nop := rfl

/-- The countdown after a NOP's first cycle, and the boundary next to it. -/
theorem witness_NextBoundaryAfterTheCountdown :
    ((State.reset.setClock 1).setCountdown 0).clockCounter % 3 = 1 ∧ ((State.reset.setClock 1).setCountdown 0).cpu.countdown = 0 ∧
      ((State.reset.setClock 4).setCountdown 519).clockCounter % 3 = 1 ∧
      ((State.reset.setClock 4).setCountdown 519).cpu.countdown = 519 := by decide

/-- The smallest accepted image; an unknown mapper; the fixed variant with two CHR banks. -/
theorem witness_ConstructionAcceptsOrRefuses :
    accepted ⟨0, 1, 0, .horizontal, List.replicate 16384 0, []⟩ ∧
      ¬ accepted ⟨1, 1, 0, .horizontal, List.replicate 16384 0, []⟩ ∧
      ¬ accepted ⟨0, 1, 2, .horizontal, List.replicate 16384 0, List.replicate 16384 0⟩ :=
  ⟨⟨.inl rfl, .inl rfl, List.length_replicate, fun _ => Nat.zero_le 1, fun h => absurd h (Nat.lt_irrefl 0)⟩,
    fun h => by rcases h.1 with h | h <;> exact absurd h (by decide),
    fun h => absurd (h.2.2.2.1 rfl) (by decide)⟩

/-- The refusal of StepNeverFaults happens: an unassigned opcode under the policy that refuses it. -/
theorem witness_StepNeverFaults :
    (0x00FF : Nat) ∈ unassignedOpcodes ∧
      step { State.reset.withFetchWord 8 0xFF with params := { Params.default with illegalPolicy := .refuse } } =
        .refused (.illegalOpcode 0xFF) := ⟨by decide, rfl⟩

theorem witness_OnlyTheseWriteRegistersAndFlags :
    State.reset.inv = true ∧ ∃ t, exec (.lda (.imm 0x80)) State.reset = .next t ∧ t.cpu.a ≠ State.reset.cpu.a :=
  ⟨by decide, _, rfl, by decide⟩

end Sys2Proof.Tests
end

/-! PROOFS. The CPU bus outside the devices (O33): what each range reads and what a write does there. -/

namespace Sys2Proof.Machine

/-! ## Memories -/

/-- Reading a canonical memory after one write. -/
theorem Cells.read_write {w : Nat} {m : Cells w} (h : Memory.wf m = true) (j k : Nat) (u : BitVec w) :
    Cells.read (Cells.write m k u) j = if j = k then u else Cells.read m j := by
  split
  · subst_vars; exact Cells.read_write_self _ _ h
  · exact Cells.read_write_ne _ ‹_›

/-! ## Reads, range by range -/

theorem busRead_register {a : Word} (s : State) (h : 0x2000 ≤ a.toNat) (h' : a.toNat ≤ 0x3FFF) :
    busRead a s = ppuRegReadByte s.cart s.ppu (a.toNat % 8) := by
  simp only [busRead, target_register h h']

/-- The window between the PPU registers and PRG reads 0 but for the two ports (R84, R87). -/
theorem busRead_window {a : Word} (s : State) (h : 0x4000 ≤ a.toNat) (h' : a.toNat ≤ 0x7FFF)
    (h6 : a.toNat ≠ 0x4016) (h7 : a.toNat ≠ 0x4017) : busRead a s = 0 := by
  by_cases h4 : a.toNat = 0x4014
  · obtain rfl : a = 0x4014 := BitVec.eq_of_toNat_eq h4
    rfl
  · simp [busRead, target_nothing h h' h4 h6 h7]

theorem busRead_bringup {a : Word} {s : State} (h : target a = .prg) (hc : s.cart = none) :
    busRead a s = Cells.read s.bringupRam (a.toNat - 0x8000) := by
  simp only [busRead, h, hc]

theorem busRead_cartridge {a : Word} {s : State} {c : Cartridge} (h : target a = .prg) (hc : s.cart = some c) :
    busRead a s = Cells.read c.prg (prgIndex c a) := by
  simp only [busRead, h, hc]

/-- One PRG bank is seen twice, two are seen once (R88). -/
theorem prgIndex_eq (c : Cartridge) (a : Word) :
    prgIndex c a = if c.prgBanks = .one then a.toNat % 0x4000 else a.toNat % 0x8000 := by
  unfold prgIndex
  cases c.prgBanks <;> rfl

/-- Of the registers only PPUSTATUS and PPUDATA have a read side effect (R404, R410, R413). -/
theorem ppuRegReadEffect_of_ne (cart : Option Cartridge) (p : Ppu) {r : Nat} (h2 : r ≠ 2) (h7 : r ≠ 7) :
    ppuRegReadEffect cart p r = p := by
  unfold ppuRegReadEffect
  split
  · exact absurd rfl h2
  · exact absurd rfl h7
  · rfl

/-- Only PPUSTATUS, PPUDATA and the two ports have a read side effect (R112). -/
theorem afterRead_of_no_effect {a : Word} (s : State) (h2 : ¬ isRegister 2 a) (h7 : ¬ isRegister 7 a)
    (h16 : a.toNat ≠ 0x4016) (h17 : a.toNat ≠ 0x4017) : afterRead a s = s := by
  unfold afterRead
  split
  case h_1 r hr =>
    have hreg := target_eq_ppuReg hr
    rw [ppuRegReadEffect_of_ne, State.setPpu_self]
    · rintro rfl; exact h2 hreg
    · rintro rfl; exact h7 hreg
  case h_2 n hn =>
    have ha := target_eq_port hn
    cases n
    · exact absurd (congrArg BitVec.toNat ha) h16
    · exact absurd (congrArg BitVec.toNat ha) h17
  all_goals rfl

/-! ## Writes, range by range -/

/-- A RAM write is seen at all four mirrors of its byte and nowhere else in RAM (R82). -/
theorem busRead_busWrite_ram {a b : Word} {v : Byte} {s : State} (hw : Memory.wf s.ram = true) (ha : a.toNat ≤ 0x1FFF)
    (hb : b.toNat ≤ 0x1FFF) :
    busRead b (busWrite a v s) = if b.toNat % 0x800 = a.toNat % 0x800 then v else busRead b s := by
  rw [busWrite_of_ram _ _ (target_ram ha), busRead_ram _ (target_ram hb), busRead_ram _ (target_ram hb),
    State.setRam_ram, Cells.read_write hw]

/-- The window ignores writes but for OAM DMA and the strobe (R84, R87, R94). -/
theorem busWrite_window {a : Word} (v : Byte) (s : State) (h : 0x4000 ≤ a.toNat) (h' : a.toNat ≤ 0x7FFF)
    (h4 : a.toNat ≠ 0x4014) (h6 : a.toNat ≠ 0x4016) : busWrite a v s = s := by
  by_cases h7 : a.toNat = 0x4017
  · obtain rfl : a = 0x4017 := BitVec.eq_of_toNat_eq h7
    rfl
  · simp only [busWrite, target_nothing h h' h4 h6 h7]

theorem busWrite_bringup {a : Word} (v : Byte) {s : State} (h : target a = .prg) (hc : s.cart = none) :
    busWrite a v s = s.setBringup (Cells.write s.bringupRam (a.toNat - 0x8000) v) := by
  simp only [busWrite, h, hc]

/-- A write to bring-up RAM is seen at its address and nowhere else in the range (R91). -/
theorem busRead_busWrite_bringup {a b : Word} {v : Byte} {s : State} (hw : Memory.wf s.bringupRam = true)
    (hc : s.cart = none) (ha : 0x8000 ≤ a.toNat) (hb : 0x8000 ≤ b.toNat) :
    busRead b (busWrite a v s) = if b = a then v else busRead b s := by
  have hindex : b.toNat - 0x8000 = a.toNat - 0x8000 ↔ b = a := by rw [← BitVec.toNat_inj]; omega
  rw [busWrite_bringup v (target_prg ha) hc, busRead_bringup (target_prg hb) hc,
    busRead_bringup (target_prg hb) (by simpa using hc), State.setBringup_bringupRam, Cells.read_write hw]
  simp only [hindex]

theorem busWrite_cartridge {a : Word} (v : Byte) {s : State} {c : Cartridge} (h : target a = .prg)
    (hc : s.cart = some c) : busWrite a v s = s.setCart (some (prgWrite v c)) := by
  simp only [busWrite, h, hc]

theorem prgWrite_fixed (v : Byte) {c : Cartridge} (h : c.mapper = .fixed) : prgWrite v c = c := by
  simp only [prgWrite, h]

theorem prgWrite_switchableChr (v : Byte) {c : Cartridge} (h : c.mapper = .switchableChr) :
    prgWrite v c = { c with chrBank := v.toNat % max c.chrBanks 1 } := by
  simp only [prgWrite, h]

/-- Settles O33: each range by the lemma about it. -/
theorem busReadAndWriteDecode : Obligations.BusReadAndWriteDecode := by
  unfold Obligations.BusReadAndWriteDecode
  refine ⟨fun a s => ⟨?ram, busRead_register s, busRead_window s, ?bringup, ?prg, afterRead_of_no_effect s⟩,
    fun a v s hs => ⟨?ramWrite, busWrite_window v s, ?bringupWrite, ?fixedWrite, ?bankWrite⟩⟩
  case ram => exact fun h => busRead_ram s (target_ram h)
  case bringup => exact fun h hc => busRead_bringup (target_prg h) hc
  case prg =>
    intro c h hc
    rw [busRead_cartridge (target_prg h) hc, prgIndex_eq]
  case ramWrite =>
    exact fun h => ⟨_, busWrite_of_ram v s (target_ram h), fun b hb => busRead_busWrite_ram (inv_ram_wf hs) h hb⟩
  case bringupWrite =>
    exact fun h hc => ⟨_, busWrite_bringup v (target_prg h) hc,
      fun b hb => busRead_busWrite_bringup (inv_bringup_wf hs) hc h hb⟩
  case fixedWrite =>
    intro c h hc hm
    rw [busWrite_cartridge v (target_prg h) hc, prgWrite_fixed v hm, ← hc, State.setCart_self]
  case bankWrite =>
    intro c h hc hm
    rw [busWrite_cartridge v (target_prg h) hc, prgWrite_switchableChr v hm]
    rfl

end Sys2Proof.Machine

/-! PROOFS. The PPU address space (O34): which cell an address names, what it reads, and where a write is seen. -/

namespace Sys2Proof.Machine

/-! ## The cell an address names (R103, R104) -/

theorem ntIndex_eq (m : Mirroring) (a : BitVec 14) :
    ntIndex m a =
      (if m = .horizontal then a.toNat / 0x800 % 2 else a.toNat / 0x400 % 2) * 0x400 + a.toNat % 0x400 := by
  unfold ntIndex
  cases m <;> simp only [reduceCtorEq, if_true, if_false] <;> omega

theorem palIndex_eq (a : BitVec 14) :
    palIndex a = if a.toNat % 4 = 0 then a.toNat % 16 else a.toNat % 32 := by
  unfold palIndex
  simp only
  split <;> split <;> omega

theorem samePpuCell_pattern {m : Mirroring} {a b : BitVec 14} (h : a.toNat ≤ 0x1FFF) :
    samePpuCell m a b ↔ b = a := by
  simp [samePpuCell, show a.toNat < 0x2000 by omega, show ¬ 0x2000 ≤ a.toNat by omega,
    show ¬ 0x3F00 ≤ a.toNat by omega]

theorem samePpuCell_nametable {m : Mirroring} {a b : BitVec 14} (h : ¬ a.toNat ≤ 0x1FFF) (h' : a.toNat ≤ 0x3EFF) :
    samePpuCell m a b ↔ (¬ b.toNat ≤ 0x1FFF ∧ b.toNat ≤ 0x3EFF) ∧ ntIndex m b = ntIndex m a := by
  rw [ntIndex_eq, ntIndex_eq]
  cases m <;> simp only [samePpuCell, reduceCtorEq, if_true, if_false] <;> omega

theorem samePpuCell_palette {m : Mirroring} {a b : BitVec 14} (h : ¬ a.toNat ≤ 0x3EFF) :
    samePpuCell m a b ↔ ¬ b.toNat ≤ 0x3EFF ∧ palIndex b = palIndex a := by
  rw [palIndex_eq, palIndex_eq]
  cases m <;> simp only [samePpuCell] <;> omega

theorem ppuWritable_above {cart : Option Cartridge} {a : BitVec 14} (h : ¬ a.toNat ≤ 0x1FFF) : ppuWritable cart a :=
  .inl (by omega)

theorem ppuWritable_pattern {cart : Option Cartridge} {a : BitVec 14} (h : a.toNat ≤ 0x1FFF) :
    ppuWritable cart a ↔ ∃ c, cart = some c ∧ c.chrBanks = 0 := by
  simp [ppuWritable, show ¬ 0x2000 ≤ a.toNat by omega]

/-! ## Reads, range by range (R100) -/

theorem ppuRead_pattern {cart : Option Cartridge} {p : Ppu} {a : BitVec 14} (h : a.toNat ≤ 0x1FFF) :
    ppuRead cart p a = chrRead cart a.toNat := if_pos h

theorem ppuRead_nametable {cart : Option Cartridge} {p : Ppu} {a : BitVec 14} (h : ¬ a.toNat ≤ 0x1FFF)
    (h' : a.toNat ≤ 0x3EFF) : ppuRead cart p a = Cells.read p.vram (ntIndex (mirroringOf cart) a) := by
  rw [ppuRead, if_neg h, if_pos h']

theorem ppuRead_palette {cart : Option Cartridge} {p : Ppu} {a : BitVec 14} (h : ¬ a.toNat ≤ 0x3EFF) :
    ppuRead cart p a = Cells.read p.palette (palIndex a) := by
  rw [ppuRead, if_neg (by omega), if_neg h]

theorem chrRead_some (c : Cartridge) (a : Nat) :
    chrRead (some c) a = Cells.read c.chr (if c.mapper = .switchableChr then c.chrBank * 8192 + a else a) := by
  cases hm : c.mapper <;> simp [chrRead, hm, Config.chrBankSize]

/-! ## Writes, range by range (R100) -/

theorem ppuWrite_pattern {a : BitVec 14} (v : Byte) (s : State) (h : a.toNat ≤ 0x1FFF) :
    ppuWrite a v s = s.setCart (chrWrite s.cart a.toNat v) := if_pos h

theorem ppuWrite_nametable {a : BitVec 14} (v : Byte) (s : State) (h : ¬ a.toNat ≤ 0x1FFF) (h' : a.toNat ≤ 0x3EFF) :
    ppuWrite a v s =
      s.setPpu { s.ppu with vram := Cells.write s.ppu.vram (ntIndex (mirroringOf s.cart) a) v } := by
  rw [ppuWrite, if_neg h, if_pos h']

theorem ppuWrite_palette {a : BitVec 14} (v : Byte) (s : State) (h : ¬ a.toNat ≤ 0x3EFF) :
    ppuWrite a v s = s.setPpu { s.ppu with palette := Cells.write s.ppu.palette (palIndex a) v } := by
  rw [ppuWrite, if_neg (by omega), if_neg h]

/-- A write changes nothing but CHR, VRAM and the palette. -/
theorem ppuWrite_frame (a : BitVec 14) (v : Byte) (s : State) :
    ppuWrite a v s =
      { s with
        cart := (ppuWrite a v s).cart
        ppu := { s.ppu with vram := (ppuWrite a v s).ppu.vram, palette := (ppuWrite a v s).ppu.palette } } := by
  unfold ppuWrite
  split
  · rfl
  · split <;> rfl

theorem ppuWrite_constants (a : BitVec 14) (v : Byte) (s : State) :
    (ppuWrite a v s).cart.map Cartridge.constants = s.cart.map Cartridge.constants := by
  unfold ppuWrite
  split
  · exact chrWrite_constants ..
  · split <;> rfl

@[simp] theorem mirroringOf_chrWrite (cart : Option Cartridge) (a : Nat) (v : Byte) :
    mirroringOf (chrWrite cart a v) = mirroringOf cart := by
  unfold chrWrite
  split
  · rfl
  · split <;> rfl

/-! ## Read after write -/

/-- CHR RAM takes a byte at its index; CHR ROM, and no cartridge, none (R102). -/
theorem chrRead_chrWrite {cart : Option Cartridge} (h : cart.all Cartridge.inv = true) (a b : Nat) (v : Byte) :
    chrRead (chrWrite cart a v) b =
      if (∃ c, cart = some c ∧ c.chrBanks = 0) ∧ b = a then v else chrRead cart b := by
  cases cart with
  | none => simp [chrWrite]
  | some c =>
    simp only [Option.all_some, Cartridge.inv, Bool.and_eq_true, decide_eq_true_eq] at h
    obtain ⟨⟨⟨-, hchr⟩, hbank⟩, -⟩ := h
    by_cases hram : c.chrBanks = 0
    · have hbank : c.chrBank = 0 := by omega
      simp [chrWrite, hram, chrRead_some, hbank, Cells.read_write (Cells.ok_wf hchr)]
    · simp [chrWrite, hram]

/-- Above the pattern tables a CHR write is not seen. -/
theorem ppuRead_chrWrite_above {b : BitVec 14} (cart : Option Cartridge) (p : Ppu) (a : Nat) (v : Byte)
    (hb : ¬ b.toNat ≤ 0x1FFF) : ppuRead (chrWrite cart a v) p b = ppuRead cart p b := by
  simp only [ppuRead, if_neg hb, mirroringOf_chrWrite]

theorem ppuRead_vramWrite (cart : Option Cartridge) {p : Ppu} (hw : Memory.wf p.vram = true) (i : Nat) (v : Byte)
    (b : BitVec 14) :
    ppuRead cart { p with vram := Cells.write p.vram i v } b =
      if (¬ b.toNat ≤ 0x1FFF ∧ b.toNat ≤ 0x3EFF) ∧ ntIndex (mirroringOf cart) b = i then v else ppuRead cart p b := by
  by_cases hb : b.toNat ≤ 0x1FFF
  · simp [ppuRead, hb]
  · by_cases hb' : b.toNat ≤ 0x3EFF <;> simp [ppuRead, hb, hb', Cells.read_write hw]

theorem ppuRead_paletteWrite (cart : Option Cartridge) {p : Ppu} (hw : Memory.wf p.palette = true) (i : Nat) (v : Byte)
    (b : BitVec 14) :
    ppuRead cart { p with palette := Cells.write p.palette i v } b =
      if ¬ b.toNat ≤ 0x3EFF ∧ palIndex b = i then v else ppuRead cart p b := by
  by_cases hb : b.toNat ≤ 0x3EFF
  · simp [ppuRead, hb]
  · simp [ppuRead, hb, show ¬ b.toNat ≤ 0x1FFF by omega, Cells.read_write hw]

open Classical in
/-- A PPU read after a PPU write: the byte written at every address of its cell, if the write takes effect; the byte of
before everywhere else. -/
theorem ppuRead_ppuWrite {s : State} (hs : s.inv = true) (a b : BitVec 14) (v : Byte) :
    ppuRead (ppuWrite a v s).cart (ppuWrite a v s).ppu b =
      if ppuWritable s.cart a ∧ samePpuCell (mirroringOf s.cart) a b then v else ppuRead s.cart s.ppu b := by
  have sound := (inv_iff s).1 hs
  obtain ⟨hvram, hpalette, -, -⟩ := Ppu.inv_parts sound.ppu
  by_cases pattern : a.toNat ≤ 0x1FFF
  · simp only [ppuWrite_pattern v s pattern, samePpuCell_pattern pattern, ppuWritable_pattern pattern,
      State.setCart_cart, State.setCart_ppu]
    by_cases hb : b.toNat ≤ 0x1FFF
    · simp only [ppuRead_pattern hb, chrRead_chrWrite sound.cart, BitVec.toNat_inj]
    · have hne : b ≠ a := by rintro rfl; exact hb pattern
      simp only [ppuRead_chrWrite_above _ _ _ _ hb, hne, and_false, if_false]
  · by_cases nametable : a.toNat ≤ 0x3EFF
    · simp only [ppuWrite_nametable v s pattern nametable, samePpuCell_nametable pattern nametable,
        ppuWritable_above pattern, true_and, State.setPpu_cart, State.setPpu_ppu,
        ppuRead_vramWrite _ (Cells.ok_wf hvram)]
    · simp only [ppuWrite_palette v s nametable, samePpuCell_palette nametable, ppuWritable_above pattern, true_and,
        State.setPpu_cart, State.setPpu_ppu, ppuRead_paletteWrite _ (Cells.ok_wf hpalette)]

/-- Settles O34: reads range by range, then read after write. -/
theorem ppuAddressSpace : Obligations.PpuAddressSpace := by
  unfold Obligations.PpuAddressSpace
  refine ⟨fun cart p a => ⟨?nothing, ?pattern, ?nametable, ?palette⟩,
    fun s a b v hs => ⟨?same, ?other, ppuWrite_frame a v s, ppuWrite_constants a v s⟩⟩
  case nothing =>
    rintro h rfl
    exact ppuRead_pattern h
  case pattern =>
    rintro c h rfl
    rw [ppuRead_pattern h, chrRead_some]
  case nametable =>
    exact fun h h' => ⟨_, by rw [ppuRead_nametable (by omega) h', ntIndex_eq], rfl⟩
  case palette =>
    intro h
    rw [ppuRead_palette (by omega), palIndex_eq]
  case same =>
    intro hw hsame
    rw [ppuRead_ppuWrite hs, if_pos ⟨hw, hsame⟩]
  case other =>
    intro hlost
    rw [ppuRead_ppuWrite hs, if_neg hlost]

end Sys2Proof.Machine

/-! PROOFS. OAM DMA (O35): the copy as a sequence of bus reads, and what it copies from a page without a device. -/

namespace Sys2Proof.Machine

open Bits

/-- The address of a byte of a page (R85). -/
theorem pageAddress_toNat (page : Byte) {i : Nat} (h : i < 256) :
    (word page (BitVec.ofNat 8 i)).toNat = page.toNat * 256 + i := by
  rw [word_toNat, BitVec.toNat_ofNat, Nat.mod_eq_of_lt h]

/-- An address below the PPU registers or above the page of the ports has no read side effect (R112). -/
theorem afterRead_of_no_device {a : Word} (s : State) (h : a.toNat < 0x2000 ∨ 0x40FF < a.toNat) : afterRead a s = s :=
  afterRead_of_no_effect s (fun ⟨hlo, hhi, _⟩ => by omega) (fun ⟨hlo, hhi, _⟩ => by omega) (by omega) (by omega)

/-- Outside the register window a read does not depend on the PPU. -/
theorem busRead_setPpu_of_no_device {a : Word} (s : State) (p : Ppu) (h : a.toNat < 0x2000 ∨ 0x40FF < a.toNat) :
    busRead a (s.setPpu p) = busRead a s := by
  unfold busRead
  split
  case h_2 r hr =>
    obtain ⟨hlo, hhi, -⟩ := target_eq_ppuReg hr
    omega
  all_goals rfl

theorem busWrite_oamDma (page : Byte) (s : State) :
    busWrite 0x4014 page s = (dmaCopy page 256 0 s).setCountdown (s.cpu.countdown + 513) := by
  have hcpu : (dmaCopy page 256 0 s).cpu = s.cpu := by rw [dmaCopy_frame]
  rw [← hcpu]
  rfl

/-- The first `n` bytes of the page stand in OAM and nothing else than OAM has changed. -/
structure CopiedTo (page : Byte) (s : State) (n : Nat) (t : State) : Prop where
  frame : t = s.setPpu { s.ppu with oam := t.ppu.oam }
  canonical : Memory.wf t.ppu.oam = true
  copied : ∀ i, i < n → Cells.read t.ppu.oam i = busRead (word page (BitVec.ofNat 8 i)) s

/-- One byte more is copied when the read has no side effect. -/
theorem CopiedTo.dmaByte {page : Byte} {s t : State} {n : Nat} (hpage : page.toNat < 0x20 ∨ 0x40 < page.toNat)
    (hn : n < 256) (h : CopiedTo page s n t) : CopiedTo page s (n + 1) (dmaByte page n t) := by
  have ha := pageAddress_toNat page hn
  have hdevice : (word page (BitVec.ofNat 8 n)).toNat < 0x2000 ∨ 0x40FF < (word page (BitVec.ofNat 8 n)).toNat := by
    omega
  have hbyte : busRead (word page (BitVec.ofNat 8 n)) t = busRead (word page (BitVec.ofNat 8 n)) s := by
    rw [h.frame, busRead_setPpu_of_no_device _ _ hdevice]
  rw [dmaByte_eq, afterRead_of_no_device _ hdevice, hbyte]
  refine ⟨?_, Cells.write_wf _ _ h.canonical, fun i hi => ?_⟩
  · rw [h.frame]; rfl
  · rw [State.setPpu_ppu, Cells.read_write h.canonical]
    split
    · subst_vars; rfl
    · exact h.copied i (by omega)

/-- From a page without a device the copy is exact and touches OAM alone. -/
theorem dmaCopy_copies {page : Byte} {s : State} (hs : s.inv = true) (hpage : page.toNat < 0x20 ∨ 0x40 < page.toNat) :
    CopiedTo page s 256 (dmaCopy page 256 0 s) := by
  obtain ⟨-, -, hoam, -⟩ := Ppu.inv_parts ((inv_iff s).1 hs).ppu
  obtain ⟨u, hstart, hstep, hend⟩ := dmaCopy_iterate page 256 0 s
  have upTo : ∀ n, n ≤ 256 → CopiedTo page s n (u n) := by
    intro n
    induction n with
    | zero =>
      intro _
      rw [hstart]
      exact ⟨rfl, Cells.ok_wf hoam, fun i hi => absurd hi (Nat.not_lt_zero i)⟩
    | succ n ih =>
      intro hn
      rw [hstep n (by omega) (by omega)]
      exact (ih (by omega)).dmaByte hpage (by omega)
  rw [hend]
  exact upTo 256 (Nat.le_refl 256)

/-- Settles O35: the copy is the sequence of `dmaCopy_iterate`, framed by `dmaCopy_frame`; from a page without a device
it is exact by induction over its bytes. -/
theorem oamDmaCopiesAPage : Obligations.OamDmaCopiesAPage := by
  unfold Obligations.OamDmaCopiesAPage
  intro page s
  refine ⟨?sequence, (busWrite_frame 0x4014 page s).1, ?oamAddr, ?ram, ?cart, ?copy⟩
  case sequence =>
    obtain ⟨u, hstart, hstep, hend⟩ := dmaCopy_iterate page 256 0 s
    refine ⟨u, hstart, fun i hi => ?_, ?_⟩
    · rw [hstep i (by omega) (by omega), dmaByte_eq]
    · rw [busWrite_oamDma, hend]
  case oamAddr =>
    obtain ⟨-, -, -, -, hoamAddr, -⟩ := dmaCopy_timing page 256 0 s
    rw [busWrite_oamDma, State.setCountdown_ppu, hoamAddr]
  case ram => rw [busWrite_oamDma, dmaCopy_frame]; rfl
  case cart => rw [busWrite_oamDma, dmaCopy_frame]; rfl
  case copy =>
    intro hs hpage
    obtain ⟨hframe, -, hcopied⟩ := dmaCopy_copies hs hpage
    rw [busWrite_oamDma]
    refine ⟨?_, ?_, hcopied⟩
    · rw [State.setCountdown_ctl, hframe]; rfl
    · rw [State.setCountdown_ppu]
      exact congrArg State.ppu hframe

end Sys2Proof.Machine

/-! PROOFS. The dispatch table (O2): an opcode's cell of the cycle grid, and what the decoder takes. -/

namespace Sys2Proof.Machine

/-- The grid of R145, row by row: the cell of a high and a low nibble holds the cycles of the dispatch entry there. -/
theorem gridCycles_nibbles : ∀ hi lo : BitVec 4,
    gridCycles (hi ++ lo) = some (dispatch (hi ++ lo) 0 0).baseCycles := by decide

/-- The cell of an opcode holds the cycles of its entry, whatever bytes follow (R142). -/
theorem gridCycles_eq_dispatch (op b1 b2 : Byte) : gridCycles op = some (dispatch op b1 b2).baseCycles := by
  obtain ⟨-, -, -, cycles, -⟩ := dispatch_entry b1 b2 op
  have nibbles : op.extractLsb' 4 4 ++ op.extractLsb' 0 4 = op := BitVec.extractLsb'_append_extractLsb'
  rw [cycles, ← nibbles, gridCycles_nibbles]

/-- A well-formed instruction is its opcode's entry, so it has the cycles of that opcode's cell. -/
theorem gridCycles_of_wellFormed {i : Instr} (h : i.wellFormed = true) :
    ∃ op, i.opcode = some op ∧ gridCycles op = some i.baseCycles := by
  obtain ⟨op, b1, b2, opcode, rfl⟩ := dispatch_of_wellFormed i h
  exact ⟨op, opcode, gridCycles_eq_dispatch op b1 b2⟩

/-- Of the bytes after an opcode the decoder takes its operand bytes and leaves the others (R140, R142). -/
theorem decode_cons_cons_cons (op b1 b2 : Byte) (rest : List Byte) :
    decode (op :: b1 :: b2 :: rest) = .ok (dispatch op b1 b2, (b1 :: b2 :: rest).drop (operandCount op)) := by
  have operand : [b1, b2].take (operandCount op) = (b1 :: b2 :: rest).take (operandCount op) :=
    (List.take_append_of_le_length (l₁ := [b1, b2]) (operandCount_le op)).symm
  have h := decode_bytes op b1 b2 ((b1 :: b2 :: rest).drop (operandCount op))
  rwa [operand, List.take_append_drop] at h

/-- Settles O2: the parts of `dispatch_entry`, the cell of the grid, and what the decoder takes. -/
theorem opcodeAloneSelectsTheEntry : Obligations.OpcodeAloneSelectsTheEntry := by
  unfold Obligations.OpcodeAloneSelectsTheEntry
  refine ⟨fun op b1 b2 => ?_, fun _ => gridCycles_of_wellFormed⟩
  obtain ⟨opcode, wellFormed, mode, -, -⟩ := dispatch_entry b1 b2 op
  exact ⟨opcode, wellFormed, mode, dispatch_operandBytes b1 b2 op, gridCycles_eq_dispatch op b1 b2,
    dispatch_unassigned b1 b2, decode_cons_cons_cons op b1 b2⟩

end Sys2Proof.Machine

/-! PROOFS. Loads, stores and register transfers (O16, O17, O18): the state each group leaves, said once for the group. -/

namespace Sys2Proof.Machine

/-! ## Instructions that read an operand -/

/-- The state after reading an operand (R183) with the registers then as in `c`; the countdown takes the cycles of the
read (R184). -/
def readInto (o : Src) (s : State) (c : Cpu) : State :=
  { operandRead o s with cpu := { c with countdown := s.cpu.countdown + operandCycles o s } }

theorem afterSrc_eq_readInto (o : Src) (s : State) : afterSrc o s = readInto o s s.cpu := by
  rw [afterSrc_eq, readInto, State.addCycles, State.setCountdown, operandRead_cpu]

/-- Whatever is done to P afterwards, only the operand was read. -/
theorem leavesAfterRead_readInto (o : Src) (s : State) (c : Cpu) (f : Byte → Byte) :
    leavesAfterRead o s c ((readInto o s c).mapP f) := leavesAfterRead_of rfl rfl

/-! ## Loads (R200 to R202) -/

/-- What the three loads share: the operand byte goes to a register and decides N and Z. -/
theorem load_effect (o : Src) (s : State) {c : Cpu} (hp : c.p = s.cpu.p) :
    leavesAfterRead o s c ((readInto o s c).mapP (putNZ (operandByte o s))) ∧
      setsNZ (operandByte o s) [.n, .z] s ((readInto o s c).mapP (putNZ (operandByte o s))) :=
  ⟨leavesAfterRead_readInto o s c _, setsNZ_of rfl hp⟩

theorem exec_lda (o : Src) (s : State) :
    exec (.lda o) s =
      .next ((readInto o s { s.cpu with a := operandByte o s }).mapP (putNZ (operandByte o s))) := by
  rw [exec, execLda, srcValue_eq, afterSrc_eq_readInto]; rfl

theorem exec_ldx (o : Src) (s : State) :
    exec (.ldx o) s =
      .next ((readInto o s { s.cpu with x := operandByte o s }).mapP (putNZ (operandByte o s))) := by
  rw [exec, execLdx, srcValue_eq, afterSrc_eq_readInto]; rfl

theorem exec_ldy (o : Src) (s : State) :
    exec (.ldy o) s =
      .next ((readInto o s { s.cpu with y := operandByte o s }).mapP (putNZ (operandByte o s))) := by
  rw [exec, execLdy, srcValue_eq, afterSrc_eq_readInto]; rfl

/-- Settles O16: each load is the operand read into its register, `load_effect`; the opcodes mode by mode. -/
theorem loadsWriteTheRegister : Obligations.LoadsWriteTheRegister := by
  unfold Obligations.LoadsWriteTheRegister
  intro o s
  refine ⟨⟨?ldaOpcode, _, exec_lda o s, load_effect o s rfl⟩, ⟨?ldxOpcode, _, exec_ldx o s, load_effect o s rfl⟩,
    ⟨?ldyOpcode, _, exec_ldy o s, load_effect o s rfl⟩⟩
  case ldaOpcode | ldxOpcode | ldyOpcode =>
    cases o with
    | imm v => rfl
    | mem m => cases m <;> rfl

/-! ## Stores (R203 to R205) -/

/-- The bus write of a store from a sound state: its effect in the words of claims, and P kept. -/
theorem busWrite_effect (e : Word) (v : Byte) {s : State} (h : s.inv = true) :
    storeEffect e v s (busWrite e v s) ∧ (busWrite e v s).cpu.p = s.cpu.p :=
  ⟨busWrite_storeEffect e v s (inv_ram_wf h) (inv_bringup_wf h), by rw [(busWrite_frame e v s).1]⟩

theorem exec_sta (o : MemMode) (s : State) : exec (.sta o) s = .next (busWrite (ea o s) s.cpu.a s) := by
  rw [exec, execSta, store_eq]

theorem exec_stx (o : MemMode) (s : State) : exec (.stx o) s = .next (busWrite (ea o s) s.cpu.x s) := by
  rw [exec, execStx, store_eq]

theorem exec_sty (o : MemMode) (s : State) : exec (.sty o) s = .next (busWrite (ea o s) s.cpu.y s) := by
  rw [exec, execSty, store_eq]

/-- Settles O17: each store is one bus write, `busWrite_effect`; the opcodes mode by mode. -/
theorem storesWriteTheAddress : Obligations.StoresWriteTheAddress := by
  unfold Obligations.StoresWriteTheAddress
  intro o s h
  refine ⟨⟨?staOpcode, exec_sta o s, busWrite_effect _ _ h⟩, ⟨?stxOpcode, exec_stx o s, busWrite_effect _ _ h⟩,
    ⟨?styOpcode, exec_sty o s, busWrite_effect _ _ h⟩⟩
  case staOpcode | stxOpcode | styOpcode => cases o <;> rfl

/-! ## Transfers (R206 to R211) -/

/-- A change of registers alone, then N and Z of a result. -/
theorem registers_effect {s : State} {c : Cpu} (r : Byte) (hp : c.p = s.cpu.p) :
    leaves s c (({ s with cpu := c } : State).mapP (putNZ r)) ∧
      setsNZ r [.n, .z] s (({ s with cpu := c } : State).mapP (putNZ r)) :=
  ⟨leaves_of rfl rfl, setsNZ_of rfl hp⟩

/-- Settles O18: five transfers are `registers_effect` of the copied register; TXS copies and leaves P alone. -/
theorem transfersCopyARegister : Obligations.TransfersCopyARegister := by
  unfold Obligations.TransfersCopyARegister
  refine ⟨rfl, rfl, rfl, rfl, rfl, rfl, fun s => ⟨?tax, ?tay, ?txa, ?tya, ?tsx, ?txs⟩⟩
  case tax => exact ⟨_, rfl, registers_effect s.cpu.a rfl⟩
  case tay => exact ⟨_, rfl, registers_effect s.cpu.a rfl⟩
  case txa => exact ⟨_, rfl, registers_effect s.cpu.x rfl⟩
  case tya => exact ⟨_, rfl, registers_effect s.cpu.y rfl⟩
  case tsx => exact ⟨_, rfl, registers_effect s.cpu.sp rfl⟩
  case txs => exact ⟨_, rfl, leaves_of rfl rfl, fun _ _ => rfl⟩

end Sys2Proof.Machine

/-! PROOFS. Arithmetic and logic (O19 to O25): the state each group leaves, said once for the group. -/

namespace Sys2Proof.Machine

/-! ## Sums and differences (R230, R231) -/

theorem complement_toNat (m : Byte) : (m ^^^ 0xFF).toNat = 255 - m.toNat := by
  rw [show (0xFF : Byte) = BitVec.allOnes 8 from rfl, BitVec.xor_allOnes, BitVec.toNat_not]

/-- The carry out of the sum SBC takes is the complement of the borrow (R231). -/
theorem sbc_carry (a m : Byte) (c : Bool) :
    decide (sum a (m ^^^ 0xFF) c > 0xFF) = decide (m.toNat + (if c then 0 else 1) ≤ a.toNat) := by
  have hm := m.isLt
  rw [decide_eq_decide, sum, complement_toNat]
  cases c <;> simp <;> omega

/-- Signed overflow of the sum SBC takes, in terms of the operand as it was read (R231). -/
theorem sbc_overflow (a m r : Byte) :
    overflows a (m ^^^ 0xFF) r = decide (((a ^^^ m) &&& (a ^^^ r) &&& 0x80) ≠ 0) := by
  have h : ~~~(a ^^^ (m ^^^ 0xFF)) = a ^^^ m := by
    rw [show (0xFF : Byte) = BitVec.allOnes 8 from rfl, ← BitVec.xor_assoc, BitVec.xor_allOnes, BitVec.not_not]
  rw [overflows, h]

/-- The flags of a sum, from the P that was written. -/
theorem sumFlags_of {s t : State} {a m : Byte} (h : t.cpu.p = putSum a m s.cpu.p) :
    t.flag .c = decide (sum a m (s.flag .c) > 0xFF) ∧ t.flag .v = overflows a m (sumByte a m (s.flag .c)) ∧
      setsNZ (sumByte a m (s.flag .c)) [.n, .z, .c, .v] s t := by
  refine ⟨by simp [State.flag, h], by simp [State.flag, h], by simp [State.flag, h], ?zero, fun f hf => ?_⟩
  case zero => rw [State.flag, h, getFlag_putSum]; rfl
  simp only [List.mem_cons, List.not_mem_nil, or_false, not_or] at hf
  simp [State.flag, h, hf]

/-- The state after the operand was read and `m` was added to A with carry. -/
def addedToA (o : Src) (m : Byte) (s : State) : State :=
  (readInto o s { s.cpu with a := sumByte s.cpu.a m (s.flag .c) }).mapP (putSum s.cpu.a m)

theorem addToA_afterSrc (o : Src) (m : Byte) (s : State) : addToA m (afterSrc o s) = addedToA o m s := by
  rw [afterSrc_eq_readInto]; rfl

theorem exec_adc (o : Src) (s : State) : exec (.adc o) s = .next (addedToA o (operandByte o s) s) := by
  rw [exec, execAdc, srcValue_eq, addToA_afterSrc]

theorem exec_sbc (o : Src) (s : State) : exec (.sbc o) s = .next (addedToA o (operandByte o s ^^^ 0xFF) s) := by
  rw [exec, execSbc, srcValue_eq, addToA_afterSrc]

/-- What ADC and SBC share: only A, P and the countdown change, and P holds the flags of the sum. -/
theorem addedToA_effect (o : Src) (m : Byte) (s : State) :
    leavesAfterRead o s { s.cpu with a := sumByte s.cpu.a m (s.flag .c) } (addedToA o m s) ∧
      (addedToA o m s).flag .c = decide (sum s.cpu.a m (s.flag .c) > 0xFF) ∧
      (addedToA o m s).flag .v = overflows s.cpu.a m (sumByte s.cpu.a m (s.flag .c)) ∧
      setsNZ (sumByte s.cpu.a m (s.flag .c)) [.n, .z, .c, .v] s (addedToA o m s) :=
  ⟨leavesAfterRead_readInto o s _ _, sumFlags_of rfl⟩

theorem sum_eq_ite (a m : Byte) (c : Bool) : sum a m c = a.toNat + m.toNat + (if c then 1 else 0) := by
  cases c <;> rfl

/-- Settles O19: `addedToA_effect` of the operand, with V in the words of the sign bits by `overflow_iff`. -/
theorem addWithCarry : Obligations.AddWithCarry := by
  unfold Obligations.AddWithCarry
  intro o s
  obtain ⟨hframe, hc, hv, hnz⟩ := addedToA_effect o (operandByte o s) s
  rw [sum_eq_ite] at hc
  refine ⟨?opcode, _, sumByte s.cpu.a (operandByte o s) (s.flag .c), exec_adc o s, ?sum, hframe, hc, hv, ?sign, hnz⟩
  case opcode =>
    cases o with
    | imm v => rfl
    | mem m => cases m <;> rfl
  case sum => rw [sumByte, sum_eq_ite, BitVec.toNat_ofNat]
  case sign => rw [hv, overflows, decide_eq_true_iff, overflow_iff]

/-- Settles O20: `addedToA_effect` of the complemented operand, read as a difference by the three `sbc_` lemmas. -/
theorem subtractWithBorrow : Obligations.SubtractWithBorrow := by
  unfold Obligations.SubtractWithBorrow
  intro o s
  obtain ⟨hframe, hc, hv, hnz⟩ := addedToA_effect o (operandByte o s ^^^ 0xFF) s
  rw [sbc_carry] at hc
  rw [sbc_overflow] at hv
  refine ⟨?opcode, _, _, exec_sbc o s, sbc_sum s.cpu.a (operandByte o s) (s.flag .c), hframe, hc, hv, hnz⟩
  case opcode =>
    cases o with
    | imm v => rfl
    | mem m => cases m <;> rfl

/-! ## Logic (R232 to R234) -/

/-- The state after the operand was read and `r` was put in A, with N and Z of it. -/
def resultInA (o : Src) (r : Byte) (s : State) : State :=
  (readInto o s { s.cpu with a := r }).mapP (putNZ r)

theorem logicToA_afterSrc (o : Src) (r : Byte) (s : State) : logicToA r (afterSrc o s) = resultInA o r s := by
  rw [afterSrc_eq_readInto]; rfl

theorem exec_and (o : Src) (s : State) :
    exec (.and o) s = .next (resultInA o (s.cpu.a &&& operandByte o s) s) := by
  rw [exec, execAnd, srcValue_eq, logicToA_afterSrc]

theorem exec_ora (o : Src) (s : State) :
    exec (.ora o) s = .next (resultInA o (s.cpu.a ||| operandByte o s) s) := by
  rw [exec, execOra, srcValue_eq, logicToA_afterSrc]

theorem exec_eor (o : Src) (s : State) :
    exec (.eor o) s = .next (resultInA o (s.cpu.a ^^^ operandByte o s) s) := by
  rw [exec, execEor, srcValue_eq, logicToA_afterSrc]

/-- What AND, ORA and EOR share: only A, N, Z and the countdown change. -/
theorem resultInA_effect (o : Src) (r : Byte) (s : State) :
    leavesAfterRead o s { s.cpu with a := r } (resultInA o r s) ∧ setsNZ r [.n, .z] s (resultInA o r s) :=
  ⟨leavesAfterRead_readInto o s _ _, setsNZ_of rfl rfl⟩

/-- Settles O21: each operation is `resultInA_effect` of its result; the opcodes mode by mode. -/
theorem logicCombinesWithA : Obligations.LogicCombinesWithA := by
  unfold Obligations.LogicCombinesWithA
  intro o s
  refine ⟨⟨?andOpcode, _, exec_and o s, resultInA_effect o _ s⟩, ⟨?oraOpcode, _, exec_ora o s, resultInA_effect o _ s⟩,
    ⟨?eorOpcode, _, exec_eor o s, resultInA_effect o _ s⟩⟩
  case andOpcode | oraOpcode | eorOpcode =>
    cases o with
    | imm v => rfl
    | mem m => cases m <;> rfl

/-! ## BIT (R235) -/

theorem exec_bit (o : MemMode) (s : State) :
    exec (.bit o) s =
      .next ((operandRead (.mem o) s).mapP (putBit s.cpu.a (operandByte (.mem o) s))) := by
  rw [exec, execBit, memValue_eq, afterMem_eq]; rfl

/-- The flags of BIT, from the P that was written. -/
theorem bitFlags_of {s t : State} {a m : Byte} (h : t.cpu.p = putBit a m s.cpu.p) :
    t.flag .z = decide (a &&& m = 0) ∧ t.flag .n = m.getLsbD 7 ∧ t.flag .v = m.getLsbD 6 ∧
      flagsKept [.n, .v, .z] s t := by
  refine ⟨by simp [State.flag, h], by simp [State.flag, h], by simp [State.flag, h], fun f hf => ?_⟩
  simp only [List.mem_cons, List.not_mem_nil, or_false, not_or] at hf
  simp [State.flag, h, hf]

/-- Settles O22: the operand was read and P written, with the flags of `bitFlags_of`. -/
theorem bitTestsMemory : Obligations.BitTestsMemory := by
  unfold Obligations.BitTestsMemory
  intro o s
  refine ⟨?opcode, _, exec_bit o s, ?registers, readsOperandOnly_of _ (sameOutside_cpu _ _), bitFlags_of ?status⟩
  case opcode => cases o <;> rfl
  case registers => simp only [State.mapP, State.setP, operandRead_cpu]
  case status => simp only [State.mapP, State.setP_p, operandRead_cpu]

/-! ## Comparisons (R236 to R238, R246) -/

/-- The state after the operand was read and compared with `reg`. -/
def compared (o : Src) (reg : Byte) (s : State) : State :=
  (readInto o s s.cpu).mapP (putCompare reg (operandByte o s))

theorem exec_cmp (o : Src) (s : State) : exec (.cmp o) s = .next (compared o s.cpu.a s) := by
  rw [exec, execCmp, srcValue_eq, afterSrc_eq_readInto, compared]

theorem exec_cpx (o : Src) (s : State) : exec (.cpx o) s = .next (compared o s.cpu.x s) := by
  rw [exec, execCpx, srcValue_eq, afterSrc_eq_readInto, compared]

theorem exec_cpy (o : Src) (s : State) : exec (.cpy o) s = .next (compared o s.cpu.y s) := by
  rw [exec, execCpy, srcValue_eq, afterSrc_eq_readInto, compared]

/-- What the three comparisons share: only C, Z, N and the countdown change. -/
theorem compared_effect (o : Src) (reg : Byte) (s : State) :
    leavesAfterRead o s s.cpu (compared o reg s) ∧ compares reg (operandByte o s) s (compared o reg s) :=
  ⟨leavesAfterRead_readInto o s _ _, compares_of _ _ rfl⟩

/-- Settles O23: each comparison is `compared_effect` of its register; the opcodes mode by mode. -/
theorem comparesWriteFlagsOnly : Obligations.ComparesWriteFlagsOnly := by
  unfold Obligations.ComparesWriteFlagsOnly
  intro o s
  refine ⟨⟨?cmpOpcode, _, exec_cmp o s, compared_effect o _ s⟩, ⟨?cpxOpcode, _, exec_cpx o s, compared_effect o _ s⟩,
    ⟨?cpyOpcode, _, exec_cpy o s, compared_effect o _ s⟩⟩
  case cmpOpcode | cpxOpcode | cpyOpcode =>
    cases o with
    | imm v => rfl
    | mem m => cases m <;> rfl

/-! ## Increments and decrements (R239 to R244) -/

theorem exec_inc (o : MemMode) (s : State) :
    exec (.inc o) s =
      .next (rmwStore (.mem o) (putNZ (operandByte (.mem o) s + 1)) (operandByte (.mem o) s + 1) s) := by
  rw [exec, execInc, memValue_eq]; rfl

theorem exec_dec (o : MemMode) (s : State) :
    exec (.dec o) s =
      .next (rmwStore (.mem o) (putNZ (operandByte (.mem o) s - 1)) (operandByte (.mem o) s - 1) s) := by
  rw [exec, execDec, memValue_eq]; rfl

/-- A read-modify-write whose flags are N and Z of its result. -/
theorem rmwStore_putNZ_effect (o : Rmw) (r : Byte) {s : State} (h : s.inv = true) :
    rmwEffect o r s (rmwStore o (putNZ r) r s) ∧ setsNZ r [.n, .z] s (rmwStore o (putNZ r) r s) := by
  obtain ⟨heffect, hp⟩ := rmw_effect o (putNZ r) r s h
  exact ⟨heffect, setsNZ_of hp rfl⟩

/-- Settles O24: each is `rmwStore_putNZ_effect` of its result; the opcodes mode by mode. -/
theorem incrementsOfMemory : Obligations.IncrementsOfMemory := by
  unfold Obligations.IncrementsOfMemory
  intro o s h
  refine ⟨⟨?incOpcode, _, exec_inc o s, rmwStore_putNZ_effect _ _ h⟩,
    ⟨?decOpcode, _, exec_dec o s, rmwStore_putNZ_effect _ _ h⟩⟩
  case incOpcode | decOpcode => cases o <;> rfl

/-- Settles O25: each is `registers_effect` of the register's new value. -/
theorem incrementsOfRegisters : Obligations.IncrementsOfRegisters := by
  unfold Obligations.IncrementsOfRegisters
  refine ⟨rfl, rfl, rfl, rfl, fun s => ⟨?inx, ?iny, ?dex, ?dey⟩⟩
  case inx => exact ⟨_, rfl, registers_effect (s.cpu.x + 1) rfl⟩
  case iny => exact ⟨_, rfl, registers_effect (s.cpu.y + 1) rfl⟩
  case dex => exact ⟨_, rfl, registers_effect (s.cpu.x - 1) rfl⟩
  case dey => exact ⟨_, rfl, registers_effect (s.cpu.y - 1) rfl⟩

end Sys2Proof.Machine

/-! PROOFS. Shifts and rotates (O26): the byte each stores, and what the four share. -/

namespace Sys2Proof.Machine

/-- The state after `r` replaced the operand, with `out` in C and N and Z of `r`: what the four instructions share. -/
def shifted (o : Rmw) (out : Bool) (r : Byte) (s : State) : State :=
  rmwStore o (putShift out r) r s

theorem exec_asl (o : Rmw) (s : State) :
    exec (.asl o) s = .next (shifted o ((rmwByte o s).getLsbD 7) (aslByte (rmwByte o s)) s) := by
  rw [exec, execAsl, rmwValue_eq]; rfl

theorem exec_lsr (o : Rmw) (s : State) :
    exec (.lsr o) s = .next (shifted o ((rmwByte o s).getLsbD 0) (lsrByte (rmwByte o s)) s) := by
  rw [exec, execLsr, rmwValue_eq]; rfl

theorem exec_rol (o : Rmw) (s : State) :
    exec (.rol o) s = .next (shifted o ((rmwByte o s).getLsbD 7) (rolByte (s.flag .c) (rmwByte o s)) s) := by
  rw [exec, execRol, rmwValue_eq]; rfl

theorem exec_ror (o : Rmw) (s : State) :
    exec (.ror o) s = .next (shifted o ((rmwByte o s).getLsbD 0) (rorByte (s.flag .c) (rmwByte o s)) s) := by
  rw [exec, execRor, rmwValue_eq]; rfl

/-- A read-modify-write of one byte; C is the bit shifted out, N and Z are of the result, the other flags are kept. -/
theorem shifted_effect (o : Rmw) (out : Bool) (r : Byte) {s : State} (h : s.inv = true) :
    rmwEffect o r s (shifted o out r s) ∧ (shifted o out r s).flag .c = out ∧
      setsNZ r [.n, .z, .c] s (shifted o out r s) := by
  obtain ⟨heffect, hp⟩ := rmw_effect o (putShift out r) r s h
  exact ⟨heffect, shiftFlags_of hp⟩

/-- Settles O26: each moves the byte by its `movedUp_` or `movedDown_` lemma and has the effect `shifted_effect`; the
opcodes mode by mode. -/
theorem shiftsMoveOneBit : Obligations.ShiftsMoveOneBit := by
  unfold Obligations.ShiftsMoveOneBit
  intro o s h
  refine ⟨⟨?aslOpcode, _, _, exec_asl o s, movedUp_asl _, shifted_effect o _ _ h⟩,
    ⟨?lsrOpcode, _, _, exec_lsr o s, movedDown_lsr _, shifted_effect o _ _ h⟩,
    ⟨?rolOpcode, _, _, exec_rol o s, movedUp_rol _ _, shifted_effect o _ _ h⟩,
    ⟨?rorOpcode, _, _, exec_ror o s, movedDown_ror _ _, shifted_effect o _ _ h⟩⟩
  case aslOpcode | lsrOpcode | rolOpcode | rorOpcode =>
    cases o with
    | acc => rfl
    | mem m => cases m <;> rfl

end Sys2Proof.Machine

/-! PROOFS. Pushes and pulls (O27, O28): what one push does to the machine, and the state each pull leaves. -/

namespace Sys2Proof.Machine

/-- A push stores its byte in the slot at SP and lowers SP by one (R300, R31, D2). -/
theorem push_effect (v : Byte) {s : State} (h : Memory.wf s.ram = true) :
    (push v s).cpu = { s.cpu with sp := s.cpu.sp - 1 } ∧ slotHolds s.cpu.sp v (push v s) ∧
      readsAlikeExcept [stackSlot s.cpu.sp] s (push v s) ∧ sameButRam s (push v s) := by
  have hslot : slotHolds s.cpu.sp v (push v s) := by
    rw [slotHolds_iff, stackByte_push v _ s h, if_pos rfl]
  have hframe : sameButRam s (push v s) := by
    rw [push_eq]; exact ⟨rfl, rfl, rfl, rfl, rfl, rfl⟩
  refine ⟨by rw [push_eq]; rfl, hslot, readsAlikeExcept_of_ram hframe fun i hi => ?_, hframe⟩
  rw [push_eq]
  exact Cells.read_write_ne _ fun e => hi (by simp [stackSlot, e])

/-- Settles O27: each is one push, `push_effect`; PHP pushes P with the flags of `getFlag_pushedByBrk`. -/
theorem pushesStoreAtSp : Obligations.PushesStoreAtSp := by
  unfold Obligations.PushesStoreAtSp
  refine ⟨rfl, rfl, fun s h => ⟨?pha, ?php⟩⟩
  case pha => exact ⟨_, rfl, push_effect s.cpu.a (inv_ram_wf h)⟩
  case php =>
    obtain ⟨hcpu, hslot, hframe⟩ := push_effect (pushedByBrk s.cpu.p) (inv_ram_wf h)
    exact ⟨_, _, rfl, hcpu, hslot, fun f => getFlag_pushedByBrk f _, hframe⟩

theorem exec_pla (s : State) :
    exec .pla s = .next
      (((s.setSp (s.cpu.sp + 1)).setA (stackByte (s.cpu.sp + 1) s)).mapP (putNZ (stackByte (s.cpu.sp + 1) s))) := by
  rw [exec, execPla, afterPull_eq, pulled_eq]

theorem exec_plp (s : State) :
    exec .plp s = .next ((s.setSp (s.cpu.sp + 1)).setP (restored (stackByte (s.cpu.sp + 1) s))) := by
  rw [exec, execPlp, afterPull_eq, pulled_eq]

/-- Settles O28: a pull changes SP only, so PLA is `registers_effect` of the byte above SP, and PLP writes P with the
flags of `getFlag_restored`. -/
theorem pullsReadAboveSp : Obligations.PullsReadAboveSp := by
  unfold Obligations.PullsReadAboveSp
  refine ⟨rfl, rfl, fun s => ⟨?pla, ?plp⟩⟩
  case pla => exact ⟨_, exec_pla s, registers_effect (stackByte (s.cpu.sp + 1) s) rfl⟩
  case plp =>
    refine ⟨_, exec_plp s, leaves_of rfl rfl, fun f => ?_⟩
    rw [flag_setP, getFlag_restored]
    cases f <;> rfl

end Sys2Proof.Machine

/-! PROOFS. Control transfer (O9, O10, O12 to O15): the state each instruction leaves, and what two pushes do. -/

namespace Sys2Proof.Machine

open Bits

/-! ## Interrupts (R333, R334) -/

/-- Settles O9: BRK takes an interrupt through a vector in PRG, `takeInterrupt_effect`; P is pushed with the flags of
`getFlag_pushedByBrk`. -/
theorem breakIsASoftwareInterrupt : Obligations.BreakIsASoftwareInterrupt := by
  unfold Obligations.BreakIsASoftwareInterrupt
  obtain ⟨-, -, -, -, hlow, hhigh⟩ := target_vectors
  refine ⟨rfl, rfl, fun s h => ⟨_, rfl, takeInterrupt_effect _ _ true s (inv_ram_wf h) hlow hhigh ?status, ?countdown,
    ?latch⟩⟩
  case status =>
    intro f
    rw [getFlag_pushedByBrk]
    cases f <;> rfl
  case countdown => exact congrArg (·.cpu.countdown) (takeInterrupt_eq _ _ s hlow hhigh)
  case latch => exact congrArg (·.cpu.nmiPending) (takeInterrupt_eq _ _ s hlow hhigh)

theorem exec_rti (s : State) :
    exec .rti s = .next
      (((s.setSp (s.cpu.sp + 3)).setP (restored (stackByte (s.cpu.sp + 1) s))).setPc
        (word (stackByte (s.cpu.sp + 3) s) (stackByte (s.cpu.sp + 2) s))) := by
  rw [exec, execRti, returnFromInterrupt_eq]

/-- Settles O10: RTI changes registers only, and P has the flags of `getFlag_restored`. (`returnFromInterrupt` is the
model's own function.) -/
theorem rtiReturnFromInterrupt : Obligations.ReturnFromInterrupt := by
  unfold Obligations.ReturnFromInterrupt
  refine ⟨rfl, fun s => ⟨_, exec_rti s, fun f => ?_, leaves_of rfl rfl⟩⟩
  have hflag := getFlag_restored f (stackByte (s.cpu.sp + 1) s)
  cases f <;> exact hflag

/-! ## Subroutines (R331, R332) -/

/-- A slot outside the bytes that were stored holds what it held. -/
theorem slotHolds_of_readsAlikeExcept {stored : List Target} {s t : State} {sp v : Byte}
    (h : readsAlikeExcept stored s t) (hn : stackSlot sp ∉ stored) (hs : slotHolds sp v s) : slotHolds sp v t :=
  fun a ha => (h a (ha ▸ hn)).trans (hs a ha)

theorem readsAlikeExcept_trans {l m : List Target} {s t u : State} (h : readsAlikeExcept l s t)
    (h' : readsAlikeExcept m t u) : readsAlikeExcept (l ++ m) s u := by
  intro a ha
  rw [List.mem_append, not_or] at ha
  exact (h' a ha.2).trans (h a ha.1)

theorem sameButRam_trans {s t u : State} (h : sameButRam s t) (h' : sameButRam t u) : sameButRam s u := by
  obtain ⟨hbringup, hppu, hcart, hctl, hclock, hparams⟩ := h
  obtain ⟨hbringup', hppu', hcart', hctl', hclock', hparams'⟩ := h'
  exact ⟨hbringup'.trans hbringup, hppu'.trans hppu, hcart'.trans hcart, hctl'.trans hctl, hclock'.trans hclock,
    hparams'.trans hparams⟩

/-- A word is pushed high byte first: two pushes, the second one slot below the first (R300). -/
theorem push16_effect (w : Word) {s : State} (h : Memory.wf s.ram = true) :
    (push16 w s).cpu = { s.cpu with sp := s.cpu.sp - 2 } ∧
      slotHolds s.cpu.sp (hiByte w) (push16 w s) ∧ slotHolds (s.cpu.sp - 1) (loByte w) (push16 w s) ∧
      readsAlikeExcept [stackSlot s.cpu.sp, stackSlot (s.cpu.sp - 1)] s (push16 w s) ∧ sameButRam s (push16 w s) := by
  obtain ⟨hcpu, hslot, hreads, hframe⟩ := push_effect (hiByte w) h
  obtain ⟨hcpu', hslot', hreads', hframe'⟩ := push_effect (loByte w) (push_wf (hiByte w) s h)
  rw [hcpu] at hcpu' hslot' hreads'
  have hsp : s.cpu.sp - 1 - 1 = s.cpu.sp - 2 := by ring
  have hother : stackSlot s.cpu.sp ∉ [stackSlot (s.cpu.sp - 1)] := by
    rw [List.mem_singleton, stackSlot_inj]
    exact (sp_ne1 s.cpu.sp).symm
  rw [hsp] at hcpu'
  exact ⟨hcpu', slotHolds_of_readsAlikeExcept hreads' hother hslot, hslot', readsAlikeExcept_trans hreads hreads',
    sameButRam_trans hframe hframe'⟩

/-- Settles O12: JSR pushes a word, `push16_effect`, and then sets PC. -/
theorem jumpToSubroutine : Obligations.JumpToSubroutine := by
  unfold Obligations.JumpToSubroutine
  intro target s h
  obtain ⟨hcpu, hframe⟩ := push16_effect (s.cpu.pc - 1) (inv_ram_wf h)
  exact ⟨rfl, _, rfl, congrArg (fun c : Cpu => { c with pc := target }) hcpu, hframe⟩

theorem exec_rts (s : State) :
    exec .rts s = .next
      ((s.setSp (s.cpu.sp + 2)).setPc (word (stackByte (s.cpu.sp + 2) s) (stackByte (s.cpu.sp + 1) s) + 1)) := by
  rw [exec, execRts, afterPull16_eq, pulled16_eq]

/-- Settles O13: RTS changes SP and PC only. -/
theorem returnFromSubroutine : Obligations.ReturnFromSubroutine := by
  unfold Obligations.ReturnFromSubroutine
  exact ⟨rfl, fun s => ⟨_, exec_rts s, leaves_of rfl rfl⟩⟩

/-! ## Branches (R320 to R328) -/

/-- Settles O14: each branch is the shared routine with its own condition, `branch_effect`. -/
theorem branchesTestOneFlag : Obligations.BranchesTestOneFlag := by
  unfold Obligations.BranchesTestOneFlag
  intro op8 s
  refine ⟨?cycles, ⟨rfl, _, rfl, branch_effect _ op8 s⟩, ⟨rfl, _, rfl, branch_effect _ op8 s⟩,
    ⟨rfl, _, rfl, branch_effect _ op8 s⟩, ⟨rfl, _, rfl, branch_effect _ op8 s⟩, ⟨rfl, _, rfl, branch_effect _ op8 s⟩,
    ⟨rfl, _, rfl, branch_effect _ op8 s⟩, ⟨rfl, _, rfl, branch_effect _ op8 s⟩, ⟨rfl, _, rfl, branch_effect _ op8 s⟩⟩
  case cycles => simp [Instr.baseCycles]

/-! ## JMP (R329, R330) -/

/-- The address of the high byte of an indirect target: the next one in the pointer's page, which wraps (R180). -/
theorem nextInPage_toNat (w : Word) :
    (word (hiByte w) (loByte w + 1)).toNat = if w.toNat % 256 = 255 then w.toNat - 255 else w.toNat + 1 := by
  have hw := w.isLt
  have hhi : (hiByte w).toNat = w.toNat / 256 := by
    rw [hiByte_eq, BitVec.toNat_ofNat]; omega
  have hlo : (loByte w).toNat = w.toNat % 256 := by simp [loByte]
  rw [word_toNat, hhi, BitVec.toNat_add, hlo, show (1 : Byte).toNat = 1 from rfl]
  split <;> omega

theorem afterIndirect_memory (w : Word) (s : State) : memoryReadsAlike s (afterIndirect w s) := by
  intro a ha
  rw [afterIndirect, busRead_afterRead _ _ ha, busRead_afterRead _ _ ha]

/-- Settles O15: JMP sets PC; the two reads of an indirect target are those of `afterIndirect`, the second at the address
of `nextInPage_toNat`. -/
theorem jumpsLoadPc : Obligations.JumpsLoadPc := by
  unfold Obligations.JumpsLoadPc
  intro w s
  refine ⟨⟨rfl, rfl, _, rfl, leaves_of rfl rfl⟩,
    ⟨rfl, rfl, _, _, nextInPage_toNat w, rfl, ?registers, sameOutside_cpu _ _, afterIndirect_memory w s⟩⟩
  case registers => rw [afterIndirect, State.setPc, afterRead_cpu, afterRead_cpu]; rfl

end Sys2Proof.Machine

/-! PROOFS. Flag instructions, NOP and unassigned opcodes (O29, O30): what writing one flag does, and the default entry. -/

namespace Sys2Proof.Machine

/-! ## Flag instructions and NOP (R360 to R367) -/

/-- A write of one flag changes that flag and nothing else of the machine. -/
theorem putFlag_effect (f : Flag) (b : Bool) (s : State) :
    leaves s s.cpu (s.mapP (putFlag f b)) ∧ (s.mapP (putFlag f b)).flag f = b ∧
      flagsKept [f] s (s.mapP (putFlag f b)) := by
  refine ⟨leaves_of rfl rfl, ?written, fun g hg => ?kept⟩
  case written => rw [flag_mapP, getFlag_putFlag, if_pos rfl]
  case kept =>
    rw [flag_mapP, getFlag_putFlag, if_neg (List.ne_of_not_mem_cons hg)]
    rfl

/-- Settles O29: each flag instruction is `putFlag_effect` of its flag and value; NOP answers the state it is given. -/
theorem flagInstructionsWriteOneFlag : Obligations.FlagInstructionsWriteOneFlag := by
  unfold Obligations.FlagInstructionsWriteOneFlag
  refine ⟨rfl, rfl, rfl, rfl, rfl, rfl, rfl, rfl, rfl, fun s => ⟨?clc, ?sec, ?cli, ?sei, ?cld, ?sed, ?clv, ?nop⟩⟩
  case clc => exact ⟨_, rfl, putFlag_effect .c false s⟩
  case sec => exact ⟨_, rfl, putFlag_effect .c true s⟩
  case cli => exact ⟨_, rfl, putFlag_effect .i false s⟩
  case sei => exact ⟨_, rfl, putFlag_effect .i true s⟩
  case cld => exact ⟨_, rfl, putFlag_effect .d false s⟩
  case sed => exact ⟨_, rfl, putFlag_effect .d true s⟩
  case clv => exact ⟨_, rfl, putFlag_effect .v false s⟩
  case nop => rfl

/-! ## Unassigned opcodes (R146, R368) -/

/-- The default entry has no operand bytes. -/
theorem operandCount_unassigned {op : Byte} (h : op.toNat ∈ unassignedOpcodes) : operandCount op = 0 := by
  rw [operandCount, dispatch_unassigned 0 0 h]
  rfl

/-- An unassigned byte decodes alone, whatever follows it, even nothing. -/
theorem decode_unassigned {op : Byte} (h : op.toNat ∈ unassignedOpcodes) (rest : List Byte) :
    decode (op :: rest) = .ok (.unassigned op, rest) := by
  have hdecode := decode_bytes op 0 0 rest
  rwa [operandCount_unassigned h, dispatch_unassigned 0 0 h] at hdecode

theorem exec_unassigned_nop (op : Byte) {s : State} (h : s.params.illegalPolicy = .nop) :
    exec (.unassigned op) s = .next s := by
  rw [exec, execUnassigned, h]

theorem exec_unassigned_refuse (op : Byte) {s : State} (h : s.params.illegalPolicy = .refuse) :
    exec (.unassigned op) s = .refused (.illegalOpcode op) := by
  rw [exec, execUnassigned, h]

/-- Settles O30: an unassigned byte decodes by `decode_unassigned` and has the configured cycles; what it then does is
the policy's, `exec_unassigned_nop` or `exec_unassigned_refuse`. -/
theorem unassignedOpcodesDoNothing : Obligations.UnassignedOpcodesDoNothing := by
  unfold Obligations.UnassignedOpcodesDoNothing
  exact fun op s h => ⟨decode_unassigned h, rfl, exec_unassigned_nop op, exec_unassigned_refuse op⟩

end Sys2Proof.Machine

/-! PROOFS. The PPU's registers (O37 to O40): the register behind each mirror, and what its reads and writes do. -/

namespace Sys2Proof.Machine

open Bits

/-! ## A register behind its mirrors (R83, R401) -/

theorem busRead_isRegister {a : Word} {r : Nat} (s : State) (h : isRegister r a) :
    busRead a s = ppuRegReadByte s.cart s.ppu r := by
  rw [busRead, target_isRegister h]

theorem afterRead_isRegister {a : Word} {r : Nat} (s : State) (h : isRegister r a) :
    afterRead a s = s.setPpu (ppuRegReadEffect s.cart s.ppu r) := by
  rw [afterRead, target_isRegister h]

theorem busWrite_isRegister {a : Word} {r : Nat} (v : Byte) (s : State) (h : isRegister r a) :
    busWrite a v s = ppuRegWrite r v s := by
  rw [busWrite, target_isRegister h]

/-- A register with no read side effect: all but PPUSTATUS and PPUDATA. -/
theorem afterRead_isRegister_of_ne {a : Word} {r : Nat} (s : State) (h : isRegister r a) (h2 : r ≠ 2) (h7 : r ≠ 7) :
    afterRead a s = s := by
  rw [afterRead_isRegister s h, ppuRegReadEffect_of_ne _ _ h2 h7, State.setPpu_self]

/-! ## PPUSTATUS and the write-only registers (R404, R413) -/

/-- PPUSTATUS from bit 7 down: the three flags, then the low bits of the data buffer (R404). -/
theorem statusByte_bits (p : Ppu) :
    (statusByte p).getLsbD 7 = p.vblank ∧ (statusByte p).getLsbD 6 = p.sprite0Hit ∧
      (statusByte p).getLsbD 5 = p.spriteOverflow ∧
      ∀ k, k < 5 → (statusByte p).getLsbD k = p.dataBuffer.getLsbD k := by
  simp only [statusByte, BitVec.getLsbD_append]
  exact ⟨by simp, by simp, by simp, fun k hk => by simp [hk]⟩

/-- A write-only register reads 0 (D28). -/
theorem ppuRegReadByte_writeOnly (cart : Option Cartridge) (p : Ppu) {r : Nat} (h2 : r ≠ 2) (h4 : r ≠ 4) (h7 : r ≠ 7) :
    ppuRegReadByte cart p r = 0 := by
  unfold ppuRegReadByte
  split
  · exact absurd rfl h2
  · exact absurd rfl h4
  · exact absurd rfl h7
  · rfl

/-- Settles O37: PPUSTATUS bit by bit, `statusByte_bits`; the write-only registers have neither a value nor an
effect. -/
theorem statusReadAndWriteOnlyRegisters : Obligations.StatusReadAndWriteOnlyRegisters := by
  unfold Obligations.StatusReadAndWriteOnlyRegisters
  refine fun a v s => ⟨fun h => ?status, fun r hr h => ?writeOnly⟩
  case status =>
    obtain ⟨hvblank, hsprite0Hit, hspriteOverflow, hbuffer⟩ := statusByte_bits s.ppu
    rw [busRead_isRegister s h]
    exact ⟨hvblank, hsprite0Hit, hspriteOverflow, hbuffer, afterRead_isRegister s h, busWrite_isRegister v s h⟩
  case writeOnly =>
    have hne : ∀ r ∈ [0, 1, 3, 5, 6], r ≠ 2 ∧ r ≠ 4 ∧ r ≠ 7 := by decide
    obtain ⟨h2, h4, h7⟩ := hne r hr
    exact ⟨(busRead_isRegister s h).trans (ppuRegReadByte_writeOnly _ _ h2 h4 h7),
      afterRead_isRegister_of_ne s h h2 h7⟩

/-! ## PPUCTRL, PPUMASK, OAMADDR and OAMDATA (R402, R403, R405 to R407) -/

/-- A write of both nametable bits of t leaves its other fields (R402). -/
theorem fields_putNametables (t : BitVec 15) (b : BitVec 2) :
    nametableX (putField t 10 b) = b.getLsbD 0 ∧ nametableY (putField t 10 b) = b.getLsbD 1 ∧
      coarseX (putField t 10 b) = coarseX t ∧ coarseY (putField t 10 b) = coarseY t ∧
      fineY (putField t 10 b) = fineY t := by
  refine ⟨?nametableX, ?nametableY, extract_putField _ _ _ _ (by omega) (by omega),
    extract_putField _ _ _ _ (by omega) (by omega), extract_putField _ _ _ _ (by omega) (by omega)⟩
  case nametableX => rw [nametableX, getLsbD_putField _ _ _ _ (by omega), if_pos (by omega)]
  case nametableY => rw [nametableY, getLsbD_putField _ _ _ _ (by omega), if_pos (by omega)]

theorem inv_oam_wf {s : State} (h : s.inv = true) : Memory.wf s.ppu.oam = true := by
  obtain ⟨-, -, hoam, -⟩ := Ppu.inv_parts ((inv_iff s).1 h).ppu
  exact Cells.ok_wf hoam

/-- Settles O38: each write is the register's own; t by `fields_putNametables`, OAM by the law of one write. -/
theorem controlAndOamRegisters : Obligations.ControlAndOamRegisters := by
  unfold Obligations.ControlAndOamRegisters
  refine fun a v s hs => ⟨fun h => ⟨_, busWrite_isRegister v s h, ?nametables⟩, busWrite_isRegister v s,
    busWrite_isRegister v s, fun h => ⟨busRead_isRegister s h, ?noEffect, _, busWrite_isRegister v s h, ?oam⟩⟩
  case nametables => simpa using fields_putNametables s.ppu.t (v.extractLsb' 0 2)
  case noEffect => exact afterRead_isRegister_of_ne s h (by decide) (by decide)
  case oam => exact fun k => Cells.read_write (inv_oam_wf hs) k _ v

/-! ## PPUSCROLL and PPUADDR (R408, R409) -/

theorem scrollWrite_first (v : Byte) {p : Ppu} (h : p.w = false) :
    scrollWrite v p = { p with t := putField p.t 0 (v.extractLsb' 3 5), x := v.extractLsb' 0 3, w := true } := by
  rw [scrollWrite, h]; rfl

theorem scrollWrite_second (v : Byte) {p : Ppu} (h : p.w = true) :
    scrollWrite v p =
      { p with t := putField (putField p.t 5 (v.extractLsb' 3 5)) 12 (v.extractLsb' 0 3), w := false } := by
  rw [scrollWrite, h]; rfl

theorem addrWrite_first (v : Byte) {p : Ppu} (h : p.w = false) :
    addrWrite v p = { p with t := putField (putField p.t 8 (v.extractLsb' 0 6)) 14 (0 : BitVec 1), w := true } := by
  rw [addrWrite, h]; rfl

theorem addrWrite_second (v : Byte) {p : Ppu} (h : p.w = true) :
    addrWrite v p = { p with t := putField p.t 0 v, v := putField p.t 0 v, w := false } := by
  rw [addrWrite, h]; rfl

/-- A field write as a number: the bits above the field, the field, the bits below it. -/
theorem putField_toNat {n w : Nat} (v : BitVec n) (lo : Nat) (f : BitVec w) (hw : lo + w ≤ n) :
    (putField v lo f).toNat = 2 ^ lo * (2 ^ w * (v.toNat / 2 ^ (lo + w)) + f.toNat) + v.toNat % 2 ^ lo := by
  apply Nat.eq_of_testBit_eq
  intro i
  rw [BitVec.testBit_toNat, getLsbD_putField v lo f i hw,
    Nat.testBit_two_pow_mul_add _ (Nat.mod_lt _ (Nat.two_pow_pos lo)), Nat.testBit_two_pow_mul_add _ f.isLt,
    Nat.testBit_mod_two_pow, Nat.testBit_div_two_pow, BitVec.testBit_toNat, BitVec.testBit_toNat, BitVec.testBit_toNat]
  by_cases below : i < lo
  · simp [below, show ¬ lo ≤ i by omega]
  · by_cases field : i - lo < w
    · simp [below, field, show lo ≤ i by omega, show i < lo + w by omega]
    · simp [below, field, show ¬ i < lo + w by omega, show i - lo - w + (lo + w) = i by omega]

/-- The first PPUADDR write: bits 13:8 of t from the byte, bit 14 cleared, bits 7:0 kept. -/
theorem toNat_addrWrite_high (t : BitVec 15) (v : Byte) :
    (putField (putField t 8 (v.extractLsb' 0 6)) 14 (0 : BitVec 1)).toNat =
      v.toNat % 64 * 256 + t.toNat % 256 := by
  have ht := t.isLt
  have hhigh : (v.extractLsb' 0 6).toNat = v.toNat % 64 := by simp
  have hzero : (0 : BitVec 1).toNat = 0 := rfl
  rw [putField_toNat _ _ _ (by omega), putField_toNat _ _ _ (by omega), hhigh, hzero]
  omega

/-- The second PPUADDR write: bits 7:0 of t from the byte, the others kept. -/
theorem toNat_addrWrite_low (t : BitVec 15) (v : Byte) :
    (putField t 0 v).toNat = t.toNat / 256 * 256 + v.toNat := by
  rw [putField_toNat _ _ _ (by omega)]
  omega

/-- Settles O39: each write by its case of the toggle; the fields of t after PPUSCROLL are those of `putField`, t after
PPUADDR is a number. -/
theorem scrollAndAddressWrites : Obligations.ScrollAndAddressWrites := by
  unfold Obligations.ScrollAndAddressWrites
  refine fun a v s => ⟨fun h hw => ?scrollX, fun h hw => ?scrollY, fun h hw => ?high, fun h hw => ?low⟩
  all_goals rw [busWrite_isRegister v s h]
  case scrollX => exact ⟨_, congrArg s.setPpu (scrollWrite_first v hw), by simp⟩
  case scrollY => exact ⟨_, congrArg s.setPpu (scrollWrite_second v hw), by simp⟩
  case high => exact ⟨_, congrArg s.setPpu (addrWrite_first v hw), toNat_addrWrite_high s.ppu.t v⟩
  case low => exact ⟨_, congrArg s.setPpu (addrWrite_second v hw), toNat_addrWrite_low s.ppu.t v⟩

/-! ## PPUDATA (R410 to R412) -/

theorem dataAddress_toNat (p : Ppu) : (dataAddress p).toNat = p.v.toNat % 0x4000 := BitVec.toNat_setWidth ..

theorem incV_v_toNat (p : Ppu) :
    (incV p).v.toNat = (p.v.toNat + (if p.ctrl.getLsbD 2 then 32 else 1)) % 0x8000 := by
  rw [incV, BitVec.toNat_add]
  split <;> rfl

/-- A PPUDATA write increments v as it stood, since the store leaves v and PPUCTRL. -/
theorem ppuDataWrite_eq (v : Byte) (s : State) :
    ppuDataWrite v s =
      (ppuWrite (dataAddress s.ppu) v s).setPpu { (ppuWrite (dataAddress s.ppu) v s).ppu with v := (incV s.ppu).v } := by
  have hv : (incV (ppuWrite (dataAddress s.ppu) v s).ppu).v = (incV s.ppu).v := by
    rw [ppuWrite_frame]; rfl
  rw [← hv]
  rfl

/-- Settles O40: the address is `dataAddress`, the next v that of `incV`, and a read goes by the address against 0x3F00. -/
theorem dataRegisterAccess : Obligations.DataRegisterAccess := by
  unfold Obligations.DataRegisterAccess
  refine fun a v s h => ⟨dataAddress s.ppu, (incV s.ppu).v, dataAddress_toNat s.ppu, incV_v_toNat s.ppu,
    fun hlow => ?buffer, fun hhigh => ?palette, afterRead_isRegister s h,
    (busWrite_isRegister v s h).trans (ppuDataWrite_eq v s)⟩
  case buffer => exact (busRead_isRegister s h).trans (if_neg (by omega))
  case palette => exact (busRead_isRegister s h).trans (if_pos hhigh)

end Sys2Proof.Machine

/-! PROOFS. One dot, case by case (R450): what the claims about the dot take apart, in place of the dot procedure. -/

namespace Sys2Proof.Machine

/-- The dots that compose a pixel (R450). -/
def Ppu.onPixelDot (p : Ppu) : Prop := p.scanline.val ≤ 239 ∧ 1 ≤ p.dot.val ∧ p.dot.val ≤ 256

section
variable (cart : Option Cartridge) (p : Ppu)

/-- What a dot does, by its place in the frame. -/
theorem ppuDot_cases :
    (p.onPixelDot ∧ ppuDot cart p =
      advance (composePixel cart p.scanline.val p.dot.val (renderLine cart p.scanline.val p.dot.val p))) ∨
    (p.onRenderLine ∧ ¬ p.onPixelDot ∧ ¬ (p.scanline.val = 261 ∧ p.dot.val = 1) ∧
      ppuDot cart p = advance (renderLine cart p.scanline.val p.dot.val p)) ∨
    (p.scanline.val = 261 ∧ p.dot.val = 1 ∧ ppuDot cart p = advance (renderLine cart 261 1 (preRenderClear p))) ∨
    (p.scanline.val = 241 ∧ p.dot.val = 1 ∧ ppuDot cart p = advance (startVBlank p)) ∨
    (¬ p.onRenderLine ∧ ¬ (p.scanline.val = 241 ∧ p.dot.val = 1) ∧ ppuDot cart p = advance p) := by
  rw [ppuDot_eq, beforeAdvance]
  by_cases hpixel : p.onPixelDot
  · obtain ⟨hline, hfirst, hlast⟩ := hpixel
    refine .inl ⟨⟨hline, hfirst, hlast⟩, ?_⟩
    simp [Ppu.when, hline, hfirst, hlast, show p.scanline.val ≠ 261 by omega, show p.scanline.val ≠ 241 by omega]
  · have hnoPixel : decide (p.scanline.val ≤ 239 ∧ 1 ≤ p.dot.val ∧ p.dot.val ≤ 256) = false := decide_eq_false hpixel
    by_cases hclear : p.scanline.val = 261 ∧ p.dot.val = 1
    · exact .inr (.inr (.inl ⟨hclear.1, hclear.2, by simp [Ppu.when, hclear]⟩))
    · by_cases hvblank : p.scanline.val = 241 ∧ p.dot.val = 1
      · exact .inr (.inr (.inr (.inl ⟨hvblank.1, hvblank.2, by simp [Ppu.when, hvblank]⟩)))
      · simp only [hnoPixel, decide_eq_false hclear, decide_eq_false hvblank]
        by_cases hrender : p.scanline.val ≤ 239 ∨ p.scanline.val = 261
        · rw [decide_eq_true hrender]
          exact .inr (.inl ⟨hrender, hpixel, hclear, rfl⟩)
        · rw [decide_eq_false hrender]
          exact .inr (.inr (.inr (.inr ⟨hrender, hvblank, rfl⟩)))

variable {p}

theorem ppuDot_of_pixel (h : p.onPixelDot) :
    ppuDot cart p =
      advance (composePixel cart p.scanline.val p.dot.val (renderLine cart p.scanline.val p.dot.val p)) := by
  have hline := h.1
  obtain ⟨-, e⟩ | ⟨-, hn, -⟩ | ⟨hs, -⟩ | ⟨hs, -⟩ | ⟨hn, -⟩ := ppuDot_cases cart p
  · exact e
  · exact absurd h hn
  · omega
  · omega
  · exact absurd (.inl hline) hn

/-- Past the pixels of a render line a dot is the line's actions alone. -/
theorem ppuDot_of_renderLine (h : p.onRenderLine) (hd : 256 < p.dot.val) :
    ppuDot cart p = advance (renderLine cart p.scanline.val p.dot.val p) := by
  obtain ⟨⟨-, -, hlast⟩, -⟩ | ⟨-, -, -, e⟩ | ⟨-, h1, -⟩ | ⟨-, h1, -⟩ | ⟨hn, -⟩ := ppuDot_cases cart p
  · omega
  · exact e
  · omega
  · omega
  · exact absurd h hn

theorem ppuDot_of_vblankStart (hs : p.scanline.val = 241) (hd : p.dot.val = 1) :
    ppuDot cart p = advance (startVBlank p) := by
  obtain ⟨⟨hline, -⟩, -⟩ | ⟨hline, -⟩ | ⟨h, -⟩ | ⟨-, -, e⟩ | ⟨-, hn, -⟩ := ppuDot_cases cart p
  · omega
  · rcases hline with h | h <;> omega
  · omega
  · exact e
  · exact absurd ⟨hs, hd⟩ hn

theorem ppuDot_of_preRenderClear (hs : p.scanline.val = 261) (hd : p.dot.val = 1) :
    ppuDot cart p = advance (renderLine cart 261 1 (preRenderClear p)) := by
  obtain ⟨⟨hline, -⟩, -⟩ | ⟨-, -, hn, -⟩ | ⟨-, -, e⟩ | ⟨h, -⟩ | ⟨hn, -⟩ := ppuDot_cases cart p
  · omega
  · exact absurd ⟨hs, hd⟩ hn
  · exact e
  · omega
  · exact absurd (.inr hs) hn

end

/-! ## The actions of a render line, by the dot (R450) -/

section
variable (cart : Option Cartridge) (s : Nat) {d : Nat} (p : Ppu)

theorem renderLine_evaluation :
    renderLine cart s 257 p = evaluateSprites (p.when p.rendering copyX) := by
  simp [renderLine, Ppu.when]

theorem renderLine_spriteFetch : renderLine cart s 320 p = fetchSprites cart p := by
  simp [renderLine, Ppu.when]

/-! What evaluation and the fetch write, no other dot of the line does. -/

theorem renderLine_spriteCount (h : d ≠ 257) : (renderLine cart s d p).spriteCount = p.spriteCount := by
  simp [renderLine, h]
theorem renderLine_oam2 (h : d ≠ 257) : (renderLine cart s d p).oam2 = p.oam2 := by
  simp [renderLine, h]
theorem renderLine_sprite0InLine (h : d ≠ 257) : (renderLine cart s d p).sprite0InLine = p.sprite0InLine := by
  simp [renderLine, h]
theorem renderLine_spriteOverflow (h : d ≠ 257) : (renderLine cart s d p).spriteOverflow = p.spriteOverflow := by
  simp [renderLine, h]
theorem renderLine_sprLo (h : d ≠ 320) : (renderLine cart s d p).sprLo = p.sprLo := by
  simp [renderLine, h]
theorem renderLine_sprHi (h : d ≠ 320) : (renderLine cart s d p).sprHi = p.sprHi := by
  simp [renderLine, h]

end

theorem renderLine_spriteOverflow_of_set (cart : Option Cartridge) (s d : Nat) {p : Ppu} (h : p.spriteOverflow = true) :
    (renderLine cart s d p).spriteOverflow = true := by
  by_cases hd : d = 257
  · rw [hd, renderLine_evaluation]
    simp [evaluateSprites, h]
  · rw [renderLine_spriteOverflow cart s p hd, h]

end Sys2Proof.Machine

/-! PROOFS. The status flags and the NMI request at every dot (O43), and the step as one dot (O49). -/

namespace Sys2Proof.Machine

/-! ## The flags of a dot (R470, R471) -/

section
variable (p : Ppu)

@[simp] theorem preRenderClear_vblank : (preRenderClear p).vblank = false := rfl
@[simp] theorem preRenderClear_sprite0Hit : (preRenderClear p).sprite0Hit = false := rfl
@[simp] theorem preRenderClear_spriteOverflow : (preRenderClear p).spriteOverflow = false := rfl
@[simp] theorem preRenderClear_sprLo : (preRenderClear p).sprLo = Vector.replicate 8 0 := rfl
@[simp] theorem preRenderClear_sprHi : (preRenderClear p).sprHi = Vector.replicate 8 0 := rfl

theorem advance_of_lt (h : p.dot.val + 1 < 341) : advance p = { p with dot := ⟨p.dot.val + 1, h⟩ } := by
  rw [advance, dif_pos h]

end

theorem composePixel_sprite0Hit_of_set (cart : Option Cartridge) (s d : Nat) {p : Ppu} (h : p.sprite0Hit = true) :
    (composePixel cart s d p).sprite0Hit = true := by
  simp [composePixel, h]

/-- The dots of VBlank start and of the pre-render clear apart, VBlank and the request are kept and no flag is cleared. -/
theorem ppuDot_flags (cart : Option Cartridge) {p : Ppu}
    (h : ¬ (p.dot.val = 1 ∧ (p.scanline.val = 241 ∨ p.scanline.val = 261))) :
    (ppuDot cart p).vblank = p.vblank ∧ (ppuDot cart p).nmiOut = p.nmiOut ∧
      (p.sprite0Hit = true → (ppuDot cart p).sprite0Hit = true) ∧
      (p.spriteOverflow = true → (ppuDot cart p).spriteOverflow = true) := by
  obtain ⟨-, e⟩ | ⟨-, -, -, e⟩ | ⟨hs, hd, -⟩ | ⟨hs, hd, -⟩ | ⟨-, -, e⟩ := ppuDot_cases cart p
  · rw [e]
    refine ⟨by simp, by simp, fun hset => ?_, fun hset => ?_⟩
    · rw [advance_sprite0Hit]
      exact composePixel_sprite0Hit_of_set _ _ _ (by simpa using hset)
    · simpa using renderLine_spriteOverflow_of_set cart _ _ hset
  · rw [e]
    refine ⟨by simp, by simp, by simp, fun hset => ?_⟩
    simpa using renderLine_spriteOverflow_of_set cart _ _ hset
  · exact absurd ⟨hd, .inr hs⟩ h
  · exact absurd ⟨hd, .inl hs⟩ h
  · rw [e]; simp

/-- A request is new only at a VBlank start. -/
theorem ppuDot_nmiOut_new {cart : Option Cartridge} {p : Ppu} (h : (ppuDot cart p).nmiOut = true) :
    p.nmiOut = true ∨ (p.scanline.val = 241 ∧ p.dot.val = 1) := by
  obtain ⟨-, e⟩ | ⟨-, -, -, e⟩ | ⟨-, -, e⟩ | ⟨hs, hd, -⟩ | ⟨-, -, e⟩ := ppuDot_cases cart p
  · exact .inl (by simpa [e] using h)
  · exact .inl (by simpa [e] using h)
  · exact .inl (by simpa [e] using h)
  · exact .inr ⟨hs, hd⟩
  · exact .inl (by simpa [e] using h)

/-- Settles O43: the dots of VBlank start and of the clear by their cases of `ppuDot_cases`, every other by
`ppuDot_flags`. -/
theorem vBlankAndPreRenderClear : Obligations.VBlankAndPreRenderClear := by
  unfold Obligations.VBlankAndPreRenderClear
  refine fun cart p => ⟨fun hs hd => ?vblankStart, fun hs hd => ?clear, ppuDot_flags cart⟩
  case vblankStart =>
    rw [ppuDot_of_vblankStart cart hs hd, advance_of_lt _ (by rw [startVBlank_dot]; omega)]
    simp only [startVBlank_dot, hd]
    rfl
  case clear =>
    rw [ppuDot_of_preRenderClear cart hs hd]
    simp [renderLine_spriteOverflow, renderLine_sprLo, renderLine_sprHi, renderLine_spriteCount, renderLine_oam2,
      renderLine_sprite0InLine]

/-! ## The step (R451, R522) -/

/-- The NMI latch is newly set only where the PPU has made a request or makes one (R522). -/
theorem step_nmiPending_new {s t : State} (h : step s = .next t) (hn : t.cpu.nmiPending = true) :
    s.cpu.nmiPending = true ∨ s.ppu.nmiOut = true ∨ (s.ppu.scanline.val = 241 ∧ s.ppu.dot.val = 1) := by
  obtain ⟨u, hu, rfl⟩ := step_next h
  cases ho : s.params.tickOrder with
  | ppuFirst =>
    rw [ho] at hn
    have hpending := hu.nmiPending hn
    simp only [cpuCycleState, ho, forward_dotPart, Bool.or_eq_true] at hpending
    exact hpending.imp_right ppuDot_nmiOut_new
  | cpuFirst =>
    rw [cpuCycleState, ho] at hu
    obtain ⟨hscanline, hdot, -, hrequest⟩ := hu.timing
    simp only [ho, finishTick, countTick, forward_dotPart, State.setClock_nmiPending, Bool.or_eq_true] at hn
    rw [← hscanline, ← hdot, ← hrequest]
    exact hn.imp hu.nmiPending ppuDot_nmiOut_new

/-- Settles O49: position, clock and request by `step_position`, the latch by `step_nmiPending_new`. -/
theorem everyStepIsOneDot : Obligations.EveryStepIsOneDot := by
  unfold Obligations.EveryStepIsOneDot
  intro s t h
  obtain ⟨hposition, hclock, hrequest⟩ := step_position h
  exact ⟨hposition, hclock, hrequest, step_nmiPending_new h⟩

end Sys2Proof.Machine

/-! PROOFS. Sprites (O45 to O47): what evaluation selects, what the fetch reads, and what a slot shows at a column. -/

namespace Sys2Proof.Machine

open Bits

/-! ## Evaluation (R466, R467) -/

section
variable (p : Ppu)

theorem evaluateSprites_spriteCount : (evaluateSprites p).spriteCount.val = min 8 (coveringEntries p).length := by
  have hlength : (selected p).length = min 8 (coveringEntries p).length := by rw [selected_eq, List.length_take]
  rw [← hlength]
  exact Nat.mod_eq_of_lt (by omega)

/-- Slot k holds the k-th entry that covers the next scanline, if there is one. -/
theorem evaluateSprites_slot (k : Fin 8) :
    (evaluateSprites p).oam2[k] = ((coveringEntries p)[k.val]?.map (oamEntry p.oam)).getD OamEntry.unused := by
  have hselected : (selected p)[k.val]? = (coveringEntries p)[k.val]? := by
    rw [selected_eq, List.getElem?_take_of_lt k.isLt]
  simp only [evaluateSprites, tabulate8_get, hselected]
  cases (coveringEntries p)[k.val]? <;> rfl

/-- Entry 0 is selected when it covers the line: it is the first in OAM order. -/
theorem evaluateSprites_sprite0InLine : (evaluateSprites p).sprite0InLine = coversNextLine p 0 := by
  have hzero : 0 ∈ (coveringEntries p).take 8 ↔ coversNextLine p 0 = true := by
    refine ⟨fun h => (List.mem_filter.1 (List.mem_of_mem_take h)).2, fun h => ?_⟩
    rw [coveringEntries, List.range_succ_eq_map, List.filter_cons_of_pos h]
    exact List.mem_cons_self
  rw [Bool.eq_iff_iff, ← hzero, ← selected_eq]
  exact List.contains_iff_mem

theorem evaluateSprites_spriteOverflow :
    (evaluateSprites p).spriteOverflow = (p.spriteOverflow || decide (8 ≤ (coveringEntries p).length)) := by
  simp only [evaluateSprites, selected_eq, List.length_take]
  congr 2
  simp

end

/-- The X copy before evaluation changes nothing that evaluation reads. -/
theorem evaluateSprites_copyX (c : Bool) (p : Ppu) :
    (evaluateSprites (p.when c copyX)).evaluated = (evaluateSprites p).evaluated ∧
      (evaluateSprites (p.when c copyX)).spriteOverflow = (evaluateSprites p).spriteOverflow := by
  cases c <;> exact ⟨rfl, rfl⟩

/-- Settles O45: dot 257 is evaluation, and no other dot of `ppuDot_cases` writes what evaluation does. -/
theorem spriteEvaluation : Obligations.SpriteEvaluation := by
  unfold Obligations.SpriteEvaluation
  refine fun cart p => ⟨fun hline hd => ?evaluation, fun hother => ?other⟩
  case evaluation =>
    have e : ppuDot cart p = advance (evaluateSprites (p.when p.rendering copyX)) := by
      rw [ppuDot_of_renderLine cart hline (by omega), hd, renderLine_evaluation]
    obtain ⟨hevaluated, hoverflow⟩ := evaluateSprites_copyX p.rendering p
    simp only [Ppu.evaluated, Prod.mk.injEq] at hevaluated
    obtain ⟨hcount, hslots, hzero⟩ := hevaluated
    simp only [e, advance_spriteCount, advance_oam2, advance_sprite0InLine, advance_spriteOverflow, hcount, hslots, hzero,
      hoverflow]
    refine ⟨evaluateSprites_spriteCount p, fun k => ?_, evaluateSprites_sprite0InLine p, evaluateSprites_spriteOverflow p⟩
    rw [evaluateSprites_slot]
    cases (coveringEntries p)[k.val]? <;> rfl
  case other =>
    obtain ⟨⟨hline, -, hd⟩, e⟩ | ⟨hline, -, -, e⟩ | ⟨hs, hd, e⟩ | ⟨-, -, e⟩ | ⟨-, -, e⟩ := ppuDot_cases cart p
    · simp [e, renderLine_spriteCount, renderLine_oam2, renderLine_sprite0InLine, renderLine_spriteOverflow,
        show p.dot.val ≠ 257 by omega]
    · have hd : p.dot.val ≠ 257 := fun hd => hother ⟨hline, hd⟩
      simp [e, renderLine_spriteCount, renderLine_oam2, renderLine_sprite0InLine, renderLine_spriteOverflow, hd]
    · simp [e, renderLine_spriteCount, renderLine_oam2, renderLine_sprite0InLine, renderLine_spriteOverflow]
    · simp [e]
    · simp [e]

/-! ## The fetch (R472) -/

theorem getLsbD_rev8 (x : Byte) {b : Nat} (h : b < 8) : (rev8 x).getLsbD b = x.getLsbD (7 - b) := by
  interval_cases b <;> simp only [rev8, BitVec.getLsbD_append] <;> simp

/-- The row of R472 of a sprite that covers the next scanline, where no difference is negative. -/
def coveredRow (p : Ppu) (e : OamEntry) : Nat :=
  if e.attr.getLsbD 7 then spriteHeight p - 1 - (nextScanline p - e.y.toNat) else nextScanline p - e.y.toNat

theorem spriteRow_covering {p : Ppu} {e : OamEntry} (hfrom : e.y.toNat ≤ nextScanline p)
    (hto : nextScanline p < e.y.toNat + spriteHeight p) :
    spriteRow p e = coveredRow p e ∧ coveredRow p e < spriteHeight p := by
  simp only [spriteRow, coveredRow]
  split <;> omega

theorem spriteAddress_short {p : Ppu} {e : OamEntry} {row : Nat} (h : p.ctrl.getLsbD 5 = false)
    (hrow : spriteRow p e = row) :
    spriteAddress p e = ((if p.ctrl.getLsbD 3 then 0x1000 else 0) + e.tile.toNat * 16 + row : Nat) := by
  have hheight : spriteHeight p = 8 := by simp only [spriteHeight, h]; rfl
  simp only [spriteAddress, if_pos hheight, hrow]
  cases p.ctrl.getLsbD 3 <;> simp

theorem toNat_getLsbD {n : Nat} (v : BitVec n) (i : Nat) : (v.getLsbD i).toNat = v.toNat / 2 ^ i % 2 :=
  Nat.toNat_testBit ..

/-- The even tile of a pair: bit 0 cleared. -/
theorem evenTile_toNat (tile : Byte) : (tile &&& 0xFE).toNat = tile.toNat / 2 * 2 := by
  have hfield : tile &&& 0xFE = putField tile 0 (0 : BitVec 1) := by simp [putField]
  have hzero : (0 : BitVec 1).toNat = 0 := rfl
  rw [hfield, putField_toNat _ _ _ (by omega), hzero]
  omega

theorem spriteAddress_tall {p : Ppu} {e : OamEntry} {row : Nat} (h : p.ctrl.getLsbD 5 = true)
    (hrow : spriteRow p e = row) (hlt : row < 16) :
    spriteAddress p e = (e.tile.toNat % 2 * 0x1000 + (e.tile.toNat / 2 * 2 + row / 8) * 16 + row % 8 : Nat) := by
  have hheight : spriteHeight p ≠ 8 := by simp only [spriteHeight, h]; decide
  simp only [spriteAddress, if_neg hheight, hrow, toNat_getLsbD, evenTile_toNat]
  split <;> omega

theorem spriteAddress_covering {p : Ppu} {e : OamEntry} (hfrom : e.y.toNat ≤ nextScanline p)
    (hto : nextScanline p < e.y.toNat + spriteHeight p) :
    spriteAddress p e =
      (if p.ctrl.getLsbD 5 then
        e.tile.toNat % 2 * 0x1000 + (e.tile.toNat / 2 * 2 + coveredRow p e / 8) * 16 + coveredRow p e % 8
      else (if p.ctrl.getLsbD 3 then 0x1000 else 0) + e.tile.toNat * 16 + coveredRow p e : Nat) := by
  obtain ⟨hrow, hinside⟩ := spriteRow_covering hfrom hto
  cases hheight : p.ctrl.getLsbD 5 with
  | false => exact spriteAddress_short hheight hrow
  | true =>
    rw [spriteHeight, hheight] at hinside
    exact spriteAddress_tall hheight hrow hinside

/-- A fetched pattern byte, bit by bit: reversed under the horizontal flip. -/
theorem getLsbD_spriteByte (cart : Option Cartridge) (p : Ppu) (e : OamEntry) {a : Int} {n : Nat} (ha : a = n) {b : Nat}
    (hb : b < 8) :
    (spriteByte cart p e a).getLsbD b =
      (ppuRead cart p (BitVec.ofNat 14 n)).getLsbD (if e.attr.getLsbD 6 then 7 - b else b) := by
  simp only [spriteByte, ha, BitVec.ofInt_natCast]
  split
  · exact getLsbD_rev8 _ hb
  · rfl

theorem fetchSprites_slot (cart : Option Cartridge) (p : Ppu) (k : Fin 8) :
    (k.val < p.spriteCount.val →
      (fetchSprites cart p).sprLo[k] = spriteByte cart p p.oam2[k] (spriteAddress p p.oam2[k]) ∧
      (fetchSprites cart p).sprHi[k] = spriteByte cart p p.oam2[k] (spriteAddress p p.oam2[k] + 8)) ∧
    (p.spriteCount.val ≤ k.val → (fetchSprites cart p).sprLo[k] = 0 ∧ (fetchSprites cart p).sprHi[k] = 0) := by
  simp only [fetchSprites, tabulate8_get]
  exact ⟨fun h => by simp [h], fun h => by simp [Nat.not_lt.2 h]⟩

/-- Settles O46: dot 320 is the fetch, slot by slot with `spriteAddress_covering`, and no other dot of `ppuDot_cases`
writes a pattern register but the pre-render clear. -/
theorem spriteFetch : Obligations.SpriteFetch := by
  unfold Obligations.SpriteFetch
  refine ⟨fun cart p k hline hd => ?fetch, fun cart p hother hclear => ?other⟩
  case fetch =>
    have e : ppuDot cart p = advance (fetchSprites cart p) := by
      rw [ppuDot_of_renderLine cart hline (by omega), hd, renderLine_spriteFetch]
    obtain ⟨hused, hunused⟩ := fetchSprites_slot cart p k
    simp only [e, advance_sprLo, advance_sprHi]
    refine ⟨fun hk hfrom hto b hb => ?_, hunused⟩
    obtain ⟨hlo, hhi⟩ := hused hk
    have haddress := spriteAddress_covering hfrom hto
    rw [hlo, hhi]
    exact ⟨getLsbD_spriteByte cart p _ haddress hb, getLsbD_spriteByte cart p _ (by rw [haddress]; rfl) hb⟩
  case other =>
    obtain ⟨⟨hline, -, hd⟩, e⟩ | ⟨hline, -, -, e⟩ | ⟨hs, hd, -⟩ | ⟨-, -, e⟩ | ⟨-, -, e⟩ := ppuDot_cases cart p
    · simp [e, renderLine_sprLo, renderLine_sprHi, show p.dot.val ≠ 320 by omega]
    · have hd : p.dot.val ≠ 320 := fun hd => hother ⟨hline, hd⟩
      simp [e, renderLine_sprLo, renderLine_sprHi, hd]
    · exact absurd ⟨hs, hd⟩ hclear
    · simp [e]
    · simp [e]

/-! ## The sprite pixel (R465) -/

/-- Slot `i` is in use, covers column `sx`, and its pixel there is not 0 (R465). -/
def slotShows (p : Ppu) (sx : Nat) (i : Fin 8) : Prop :=
  i.val < p.spriteCount.val ∧ p.oam2[i].x.toNat ≤ sx ∧ sx ≤ p.oam2[i].x.toNat + 7 ∧
    (p.sprHi[i].getLsbD (7 - (sx - p.oam2[i].x.toNat)) = true ∨
      p.sprLo[i].getLsbD (7 - (sx - p.oam2[i].x.toNat)) = true)

theorem slotPixel_of_shows {p : Ppu} {sx : Nat} {i : Fin 8} (h : slotShows p sx i) :
    slotPixel p sx i =
      some
        { value := pair (p.sprHi[i].getLsbD (7 - (sx - p.oam2[i].x.toNat)))
            (p.sprLo[i].getLsbD (7 - (sx - p.oam2[i].x.toNat)))
          palette := p.oam2[i].attr.extractLsb' 0 2, behind := p.oam2[i].attr.getLsbD 5
          spriteZero := decide (i.val = 0) && p.sprite0InLine } := by
  obtain ⟨hused, hleft, hright, hbits⟩ := h
  rw [slotPixel, if_pos ⟨hused, hleft, hright⟩]
  exact if_neg ((pair_ne_zero _ _).2 hbits)

theorem slotPixel_of_not_shows {p : Ppu} {sx : Nat} {i : Fin 8} (h : ¬ slotShows p sx i) : slotPixel p sx i = none := by
  simp only [slotPixel]
  split
  case isFalse => rfl
  case isTrue hcovers =>
    obtain ⟨hused, hleft, hright⟩ := hcovers
    exact if_pos (not_not.1 fun hvalue => h ⟨hused, hleft, hright, (pair_ne_zero _ _).1 hvalue⟩)

/-- Settles O47: `slots_first` over the slots, each of which gives its pixel when it shows one and nothing else. -/
theorem spritePixelIsTheFirst : Obligations.SpritePixelIsTheFirst := by
  unfold Obligations.SpritePixelIsTheFirst
  refine fun p d => ⟨fun hoff => ?off, fun hon hnone => ?nothing, fun hon k hk hfirst => ?first⟩
  case off => rw [spritePixel, hoff, if_neg Bool.false_ne_true]
  case nothing =>
    rw [spritePixel, if_pos hon, List.findSome?_eq_none_iff]
    exact fun k _ => slotPixel_of_not_shows (hnone k)
  case first =>
    rw [spritePixel, if_pos hon,
      slots_first _ k _ (fun j hj => slotPixel_of_not_shows (hfirst j hj)) (slotPixel_of_shows hk)]
    exact ⟨_, rfl, rfl, rfl, rfl, rfl⟩

end Sys2Proof.Machine

/-! PROOFS. The background pipeline (O44): where each fetch reads, and what a fetch dot does to latches and shifters. -/

namespace Sys2Proof.Machine

open Bits

/-! ## The addresses of the fetches (R456 to R458) -/

section
variable (v : BitVec 15)

theorem nametableAddress_eq :
    (0x2000 ||| (v.setWidth 14 &&& 0x0FFF) : BitVec 14) = BitVec.ofNat 14 (0x2000 + v.toNat % 0x1000) := by
  have hfield : (0x2000 ||| (v.setWidth 14 &&& 0x0FFF) : BitVec 14) = putField 0x2000 0 (v.extractLsb' 0 12) := by
    apply BitVec.eq_of_getLsbD_eq
    intro i hi
    rw [getLsbD_putField _ _ _ _ (by omega)]
    interval_cases i <;> simp
  have hbase : (0x2000 : BitVec 14).toNat = 0x2000 := rfl
  apply BitVec.eq_of_toNat_eq
  rw [hfield, putField_toNat _ _ _ (by omega), hbase]
  simp only [BitVec.extractLsb'_toNat, BitVec.toNat_ofNat, Nat.shiftRight_zero]
  omega

/-- `attrAddress` from its three fields: nametable, block row, block column. -/
theorem attrAddress_fields :
    attrAddress v =
      putField (putField (putField 0x23C0 0 (v.extractLsb' 2 3)) 3 (v.extractLsb' 7 3)) 10 (v.extractLsb' 10 2) := by
  apply BitVec.eq_of_getLsbD_eq
  intro i hi
  rw [getLsbD_putField _ _ _ _ (by omega), getLsbD_putField _ _ _ _ (by omega), getLsbD_putField _ _ _ _ (by omega)]
  interval_cases i <;> simp [attrAddress]

/-- `attrAddress` as a number: the nametable, then the block of 4 by 4 tiles. -/
theorem attrAddress_toNat :
    (attrAddress v).toNat =
      0x23C0 + (v.toNat / 0x400 % 4) * 0x400 + (coarseY v).toNat / 4 * 8 + (coarseX v).toNat / 4 := by
  have hx : (v.extractLsb' 2 3).toNat = (coarseX v).toNat / 4 := by
    simp only [coarseX, BitVec.extractLsb'_toNat, Nat.shiftRight_eq_div_pow]; omega
  have hy : (v.extractLsb' 7 3).toNat = (coarseY v).toNat / 4 := by
    simp only [coarseY, BitVec.extractLsb'_toNat, Nat.shiftRight_eq_div_pow]; omega
  have hn : (v.extractLsb' 10 2).toNat = v.toNat / 0x400 % 4 := by
    simp only [BitVec.extractLsb'_toNat, Nat.shiftRight_eq_div_pow]
  have hbase : (0x23C0 : BitVec 14).toNat = 0x23C0 := rfl
  have hxlt := (coarseX v).isLt
  have hylt := (coarseY v).isLt
  rw [attrAddress_fields, putField_toNat _ _ _ (by omega), putField_toNat _ _ _ (by omega),
    putField_toNat _ _ _ (by omega), hx, hy, hn, hbase]
  omega

/-- The two palette bits of a quadrant of the block (R457). -/
theorem attrPair (at0 : Byte) (lower right : Bool) :
    let at1 := if lower then at0 >>> 4 else at0
    let at2 := if right then at1 >>> 2 else at1
    at2.extractLsb' 0 2 = BitVec.ofNat 2 (at0.toNat / 2 ^ (4 * lower.toNat + 2 * right.toNat)) := by
  apply BitVec.eq_of_toNat_eq
  cases lower <;> cases right <;> simp [Nat.shiftRight_eq_div_pow]

end

section
variable (cart : Option Cartridge) (p : Ppu)

theorem fetchNT_bgNextId :
    (fetchNT cart p).bgNextId = ppuRead cart p (BitVec.ofNat 14 (0x2000 + p.v.toNat % 0x1000)) := by
  rw [← nametableAddress_eq]
  rfl

theorem fetchAT_bgNextAttr :
    (fetchAT cart p).bgNextAttr =
      BitVec.ofNat 2 ((ppuRead cart p (attrAddress p.v)).toNat /
        2 ^ (4 * ((coarseY p.v).toNat / 2 % 2) + 2 * ((coarseX p.v).toNat / 2 % 2))) := by
  have hlower : (p.v.getLsbD 6).toNat = (coarseY p.v).toNat / 2 % 2 := by
    rw [toNat_getLsbD, coarseY, BitVec.extractLsb'_toNat, Nat.shiftRight_eq_div_pow]; omega
  have hright : (p.v.getLsbD 1).toNat = (coarseX p.v).toNat / 2 % 2 := by
    rw [toNat_getLsbD, coarseX, BitVec.extractLsb'_toNat, Nat.shiftRight_eq_div_pow]; omega
  rw [← hlower, ← hright]
  exact attrPair _ _ _

theorem bgPatternAddress_eq :
    bgPatternAddress p = (if p.ctrl.getLsbD 4 then 0x1000 else 0) + p.bgNextId.toNat * 16 + (fineY p.v).toNat := by
  rw [bgPatternAddress, fineY]
  cases p.ctrl.getLsbD 4 <;> rfl

end

/-! ## The stage of a dot (R453 to R458) -/

/-- What a background step does to latches and shifters: the shift, the reload at phase 0, one fetch at each of the
phases 0, 2, 4 and 6. -/
theorem bgStep_background (cart : Option Cartridge) (d : Nat) (p : Ppu) :
    (bgStep cart d p).background =
      let q := (p.when (p.mask.getLsbD 3) bgShift).when (decide ((d - 1) % 8 = 0)) bgReload
      (if (d - 1) % 8 = 0 then (fetchNT cart p).bgNextId else p.bgNextId,
        if (d - 1) % 8 = 2 then (fetchAT cart p).bgNextAttr else p.bgNextAttr,
        if (d - 1) % 8 = 4 then (fetchPTLo cart p).bgNextLo else p.bgNextLo,
        if (d - 1) % 8 = 6 then (fetchPTHi cart p).bgNextHi else p.bgNextHi,
        q.bgPatLo, q.bgPatHi, q.bgAttrLo, q.bgAttrHi) := by
  unfold bgStep
  split
  case h_5 h7 =>
    rw [h7]
    refine (background_when incX _ fun _ => rfl).trans ?_
    cases p.mask.getLsbD 3 <;> rfl
  case h_6 h0 h2 h4 h6 _ =>
    rw [if_neg h0, if_neg h2, if_neg h4, if_neg h6, decide_eq_false h0]
    cases p.mask.getLsbD 3 <;> rfl
  all_goals
    rename_i hfetch
    rw [hfetch]
    cases p.mask.getLsbD 3 <;> rfl

theorem bgStep_background_preRenderClear (cart : Option Cartridge) (d : Nat) (p : Ppu) :
    (bgStep cart d (preRenderClear p)).background = (bgStep cart d p).background := by
  rw [bgStep_background, bgStep_background, preRenderClear_mask]
  cases p.mask.getLsbD 3 <;> cases decide ((d - 1) % 8 = 0) <;> rfl

/-! ## The background at a dot (R450, R460) -/

section
variable (cart : Option Cartridge) {p : Ppu}

theorem advance_background (p : Ppu) : (advance p).background = p.background := by simp [Ppu.background]

theorem renderLine_background_of_fetch (s : Nat) {d : Nat} (p : Ppu) (h : 1 ≤ d ∧ d ≤ 256 ∨ 321 ≤ d ∧ d ≤ 336) :
    (renderLine cart s d p).background = (bgStep cart d p).background := by
  rw [background_renderLine, decide_eq_true h]; rfl

theorem renderLine_background_of_not_fetch (s : Nat) {d : Nat} (p : Ppu)
    (h : ¬ (1 ≤ d ∧ d ≤ 256 ∨ 321 ≤ d ∧ d ≤ 336)) : (renderLine cart s d p).background = p.background := by
  rw [background_renderLine, decide_eq_false h]; rfl

theorem ppuDot_background_of_fetch (hline : p.onRenderLine) (hdot : p.onFetchDot) :
    (ppuDot cart p).background = (bgStep cart p.dot.val p).background := by
  obtain ⟨-, e⟩ | ⟨-, -, -, e⟩ | ⟨-, hd, e⟩ | ⟨hs, -, -⟩ | ⟨hn, -⟩ := ppuDot_cases cart p
  · rw [e, advance_background]
    exact renderLine_background_of_fetch cart _ p hdot
  · rw [e, advance_background, renderLine_background_of_fetch cart _ p hdot]
  · rw [e, hd, advance_background, renderLine_background_of_fetch cart _ _ (by omega), bgStep_background_preRenderClear]
  · rcases hline with h | h <;> omega
  · exact absurd hline hn

theorem ppuDot_background_of_not_fetch (h : ¬ (p.onRenderLine ∧ p.onFetchDot)) :
    (ppuDot cart p).background = p.background := by
  obtain ⟨⟨hline, hfirst, hlast⟩, -⟩ | ⟨hline, -, -, e⟩ | ⟨hs, hd, -⟩ | ⟨-, -, e⟩ | ⟨-, -, e⟩ := ppuDot_cases cart p
  · exact absurd ⟨.inl hline, .inl ⟨hfirst, hlast⟩⟩ h
  · rw [e, advance_background]
    exact renderLine_background_of_not_fetch cart _ p fun hdot => h ⟨hline, hdot⟩
  · exact absurd ⟨.inr hs, .inl (by omega)⟩ h
  · rw [e, advance_background]; rfl
  · rw [e, advance_background]

end

/-- A reload puts a byte under the high byte of a shift register (R454). -/
theorem putField_lowByte (w : Word) (b : Byte) : putField w 0 b = (w &&& 0xFF00) ||| zext16 b := by
  simp [putField, zext16]

theorem zext16_attrFill (b : Bool) : zext16 (attrFill b) = if b then 0x00FF else 0 := by cases b <;> rfl

theorem bgReload_lowBytes (p : Ppu) :
    (bgReload p).bgPatLo = (p.bgPatLo &&& 0xFF00) ||| zext16 p.bgNextLo ∧
      (bgReload p).bgPatHi = (p.bgPatHi &&& 0xFF00) ||| zext16 p.bgNextHi ∧
      (bgReload p).bgAttrLo = (p.bgAttrLo &&& 0xFF00) ||| (if p.bgNextAttr.getLsbD 0 then 0x00FF else 0) ∧
      (bgReload p).bgAttrHi = (p.bgAttrHi &&& 0xFF00) ||| (if p.bgNextAttr.getLsbD 1 then 0x00FF else 0) := by
  simp only [← zext16_attrFill, ← putField_lowByte]
  exact ⟨rfl, rfl, rfl, rfl⟩

/-- Settles O44: a fetch dot of a render line is its background step, whose latches and shifters `bgStep_background` gives;
no other dot touches them. -/
theorem backgroundPipeline : Obligations.BackgroundPipeline := by
  unfold Obligations.BackgroundPipeline
  refine fun cart p => ⟨fun hline hdot => ?fetch, fun hother => ?other⟩
  case fetch =>
    have hbackground := (ppuDot_background_of_fetch cart hline hdot).trans (bgStep_background cart _ p)
    simp only [Ppu.background, Prod.mk.injEq] at hbackground
    obtain ⟨hid, hattr, hlo, hhi, hpatLo, hpatHi, hattrLo, hattrHi⟩ := hbackground
    rw [fetchNT_bgNextId] at hid
    rw [fetchAT_bgNextAttr] at hattr
    simp only [fetchPTLo, fetchPTHi, bgPatternAddress_eq] at hlo hhi
    refine ⟨hid, fun h0 => ?reload, fun h0 => ?shift, ⟨_, attrAddress_toNat p.v, hattr⟩, hlo, hhi⟩
    case reload =>
      rw [hpatLo, hpatHi, hattrLo, hattrHi, decide_eq_true h0]
      cases p.mask.getLsbD 3 <;> exact bgReload_lowBytes _
    case shift =>
      rw [hpatLo, hpatHi, hattrLo, hattrHi, decide_eq_false h0]
      cases p.mask.getLsbD 3 <;> exact ⟨rfl, rfl, rfl, rfl⟩
  case other => simpa [Ppu.background] using ppuDot_background_of_not_fetch cart hother

end Sys2Proof.Machine

/-! PROOFS. Pixel output (O48): the state a pixel is composed in, the colour that wins, and the sprite-zero hit. -/

namespace Sys2Proof.Machine

open Bits

/-! ## The state a pixel is composed in -/

theorem renderLine_evaluated (cart : Option Cartridge) (s : Nat) {d : Nat} (p : Ppu) (h : d ≠ 257) :
    (renderLine cart s d p).evaluated = p.evaluated := by
  simp [Ppu.evaluated, renderLine_spriteCount, renderLine_oam2, renderLine_sprite0InLine, h]

/-- A pixel is composed from the shift registers as the dot leaves them and from the rest as it was. -/
theorem ppuDot_pixel (cart : Option Cartridge) {p : Ppu} (h : p.onPixelDot) :
    let q := ppuDot cart p
    let u := { p with bgPatLo := q.bgPatLo, bgPatHi := q.bgPatHi, bgAttrLo := q.bgAttrLo, bgAttrHi := q.bgAttrHi }
    q.frameBuffer = (composePixel cart p.scanline.val p.dot.val u).frameBuffer ∧
      q.sprite0Hit = (composePixel cart p.scanline.val p.dot.val u).sprite0Hit := by
  have hd := h.2.2
  have hevaluated := renderLine_evaluated cart p.scanline.val p (show p.dot.val ≠ 257 by omega)
  have hlo := renderLine_sprLo cart p.scanline.val p (show p.dot.val ≠ 320 by omega)
  have hhi := renderLine_sprHi cart p.scanline.val p (show p.dot.val ≠ 320 by omega)
  simp only [ppuDot_of_pixel cart h, advance_frameBuffer, advance_sprite0Hit]
  exact composePixel_congr cart _ _ (by simp) hevaluated hlo hhi (by simp) (by simp) (by simp) (by simp) (by simp)
    (by simp)

theorem ppuDot_of_not_pixel (cart : Option Cartridge) {p : Ppu} (h : ¬ p.onPixelDot) :
    (ppuDot cart p).frameBuffer = p.frameBuffer ∧ ((ppuDot cart p).sprite0Hit = true → p.sprite0Hit = true) := by
  obtain ⟨hpixel, -⟩ | ⟨-, -, -, e⟩ | ⟨-, -, e⟩ | ⟨-, -, e⟩ | ⟨-, -, e⟩ := ppuDot_cases cart p
  · exact absurd hpixel h
  all_goals rw [e]; simp

/-! ## The colour and the hit (R464, R468, R469) -/

theorem composePixel_read (cart : Option Cartridge) (s d : Nat) {p : Ppu} (h : p.inv = true) :
    Cells.read (composePixel cart s d p).frameBuffer (s * 256 + d - 1) =
      colourIndex cart p (winner (bgPixel p) (spritePixel p d)) := by
  obtain ⟨-, -, -, hframe⟩ := Ppu.inv_parts h
  exact Cells.read_write_self _ _ (Cells.ok_wf hframe)

theorem composePixel_read_ne (cart : Option Cartridge) {s d k : Nat} (p : Ppu) (h : k ≠ s * 256 + d - 1) :
    Cells.read (composePixel cart s d p).frameBuffer k = Cells.read p.frameBuffer k :=
  Cells.read_write_ne _ h

theorem colourIndex_eq (cart : Option Cartridge) (p : Ppu) (value palette : Nat) :
    colourIndex cart p (value, palette) =
      (ppuRead cart p (BitVec.ofNat 14 (0x3F00 + (palette * 4 + value)))).setWidth 6 := by
  rw [colourIndex, Nat.add_assoc]

/-! The four cases of priority (R469). -/

section
variable {bg : BgPixel} {sp : SpritePixel}

theorem winner_backdrop (h : bg.value = 0) : winner bg none = (0, 0) := if_pos h

theorem winner_backgroundAlone (h : bg.value ≠ 0) : winner bg none = (bg.value.toNat, bg.palette.toNat) := if_neg h

theorem winner_sprite (h : bg.value = 0 ∨ sp.behind = false) :
    winner bg (some sp) = (sp.value.toNat, sp.palette.toNat + 4) := if_pos h

theorem winner_background (h : bg.value ≠ 0) (hbehind : sp.behind = true) :
    winner bg (some sp) = (bg.value.toNat, bg.palette.toNat) := by
  have hfront : ¬ (bg.value = 0 ∨ sp.behind = false) := by
    rw [hbehind]
    exact not_or.2 ⟨h, by decide⟩
  exact (if_neg hfront).trans (if_neg h)

end

/-- The left column counts only when neither layer is clipped there (R468). -/
theorem leftColumn_iff (d : Nat) (m1 m2 : Bool) :
    (!(decide (d ≤ 8) && !(m1 && m2))) = true ↔ 8 < d ∨ (m1 = true ∧ m2 = true) := by
  cases m1 <;> cases m2 <;> simp

theorem hitsSpriteZero_iff (p : Ppu) (d : Nat) (bg : BgPixel) (spr : Option SpritePixel) :
    hitsSpriteZero p d bg spr = true ↔
      ∃ sp, spr = some sp ∧ sp.spriteZero = true ∧ bg.value ≠ 0 ∧ p.mask.getLsbD 3 = true ∧ p.mask.getLsbD 4 = true ∧
        (8 < d ∨ (p.mask.getLsbD 1 = true ∧ p.mask.getLsbD 2 = true)) := by
  cases spr with
  | none => simp [hitsSpriteZero]
  | some sp =>
    simp only [hitsSpriteZero, Bool.and_eq_true, decide_eq_true_eq, leftColumn_iff, Option.some.injEq,
      exists_eq_left', and_assoc]

theorem bgPixel_value (p : Ppu) :
    (bgPixel p).value =
      if p.mask.getLsbD 3 then pair (p.bgPatHi.getLsbD (15 - p.x.toNat)) (p.bgPatLo.getLsbD (15 - p.x.toNat)) else 0 := by
  rw [bgPixel]; split <;> rfl

theorem bgPixel_palette (p : Ppu) :
    (bgPixel p).palette =
      if p.mask.getLsbD 3 then pair (p.bgAttrHi.getLsbD (15 - p.x.toNat)) (p.bgAttrLo.getLsbD (15 - p.x.toNat))
      else 0 := by
  rw [bgPixel]; split <;> rfl

/-- Settles O48: the dots by `ppuDot_pixel` and `ppuDot_of_not_pixel`, the colour by the four cases of `winner`, the hit by
`hitsSpriteZero_iff`. -/
theorem pixelOutput : Obligations.PixelOutput := by
  unfold Obligations.PixelOutput
  refine ⟨fun cart p => ⟨fun hline hfirst hlast => ppuDot_pixel cart ⟨hline, hfirst, hlast⟩, ppuDot_of_not_pixel cart⟩,
    fun cart p s d hinv => ?_⟩
  have hread := composePixel_read cart s d hinv
  simp only [← bgPixel_value, ← bgPixel_palette]
  refine ⟨fun h0 hspr => ?backdrop, fun h0 hspr => ?backgroundAlone, fun sp hspr hfront => ?sprite,
    fun sp hspr h0 hbehind => ?background, fun k => composePixel_read_ne cart p, ?hit⟩
  case backdrop => rw [hread, hspr, winner_backdrop h0, colourIndex_eq]
  case backgroundAlone => rw [hread, hspr, winner_backgroundAlone h0, colourIndex_eq]
  case sprite => rw [hread, hspr, winner_sprite hfront, colourIndex_eq]
  case background => rw [hread, hspr, winner_background h0 hbehind, colourIndex_eq]
  case hit =>
    rw [← hitsSpriteZero_iff]
    exact Bool.or_eq_true_iff ..

end Sys2Proof.Machine

/-! PROOFS. The NMI (O7, O8): the state its entry leaves, and what a step does at a boundary and away from one. -/

namespace Sys2Proof.Machine

/-! ## The entry (R524) -/

/-- The latch is of no interest to what taking an interrupt does. -/
theorem interruptEffect_setNmiPending {returnTo vector : Word} {brk b : Bool} {s t : State}
    (h : interruptEffect returnTo brk vector (s.setNmiPending b) t) : interruptEffect returnTo brk vector s t := h

/-- Neither is the countdown. -/
theorem interruptEffect_setCountdown {returnTo vector : Word} {brk : Bool} {s t : State} (n : Nat)
    (h : interruptEffect returnTo brk vector s t) : interruptEffect returnTo brk vector s (t.setCountdown n) := h

theorem enterNmi_nmiPending (s : State) : (enterNmi s).cpu.nmiPending = false := by
  obtain ⟨hlow, hhigh, -⟩ := target_vectors
  exact congrArg (·.cpu.nmiPending) (takeInterrupt_eq _ _ (s.setNmiPending false) hlow hhigh)

/-- Settles O8: the NMI takes an interrupt through a vector in PRG, `takeInterrupt_effect`; P is pushed with the flags of
`getFlag_pushedByNmi`. -/
theorem nmiEntry : Obligations.NmiEntry := by
  unfold Obligations.NmiEntry
  obtain ⟨hlow, hhigh, -⟩ := target_vectors
  refine fun s h => ⟨interruptEffect_setCountdown _ (interruptEffect_setNmiPending
    (takeInterrupt_effect _ _ false (s.setNmiPending false) (inv_ram_wf h) hlow hhigh ?status)),
    enterNmi_nmiPending s, rfl⟩
  case status =>
    intro f
    rw [getFlag_pushedByNmi]
    cases f <;> rfl

/-! ## The step at a boundary and away from one (R523) -/

/-- The dot and the forward of R577 do not make a boundary or undo one. -/
theorem atBoundary_cpuCycleState (s : State) : atBoundary (cpuCycleState s) ↔ atBoundary s := by
  simp only [atBoundary, cpuCycleState_clockCounter, cpuCycleState_countdown]

/-- At a boundary the CPU part of a tick is the entry or one instruction, and a cycle counted. -/
theorem cpuPart_boundary {s : State} (h : atBoundary s) :
    cpuPart s = andThen (if s.cpu.nmiPending then .next (enterNmi s) else executeInstruction s) countDown := by
  obtain ⟨hcycle, hcountdown⟩ := h
  rw [cpuPart, Config.cpuDivider, if_pos hcycle, cpuCycle, if_pos hcountdown]
  split <;> rfl

theorem andThen_andThen (r : Result) (f g : State → State) :
    andThen (andThen r f) g = andThen r fun t => g (f t) := by
  cases r <;> rfl

theorem step_boundary {s : State} (h : atBoundary s) :
    step s =
      andThen (if (cpuCycleState s).cpu.nmiPending then .next (enterNmi (cpuCycleState s))
        else executeInstruction (cpuCycleState s)) fun t => finishTick s.params.tickOrder (countDown t) := by
  rw [step_eq, cpuPart_boundary ((atBoundary_cpuCycleState s).2 h), andThen_andThen]

theorem step_idle {s : State} (h : ¬ atBoundary s) :
    step s = .next (finishTick s.params.tickOrder
      (if s.clockCounter % 3 = 0 then countDown (cpuCycleState s) else cpuCycleState s)) := by
  rw [step_eq, cpuPart_idle (mt (atBoundary_cpuCycleState s).1 h), cpuCycleState_clockCounter]
  rfl

/-- The CPU's program counter is kept and its NMI latch not cleared. -/
def requestWaits (s t : State) : Prop :=
  t.cpu.pc = s.cpu.pc ∧ (s.cpu.nmiPending = true → t.cpu.nmiPending = true)

theorem requestWaits_trans {s t u : State} (h : requestWaits s t) (h' : requestWaits t u) : requestWaits s u :=
  ⟨h'.1.trans h.1, h'.2 ∘ h.2⟩

theorem requestWaits_forward (s : State) : requestWaits s (forwardNmi (dotPart s)) := by
  rw [forward_dotPart]
  exact ⟨rfl, fun h => Bool.or_eq_true_iff.2 (.inl h)⟩

theorem requestWaits_cpuCycleState (s : State) : requestWaits s (cpuCycleState s) := by
  unfold cpuCycleState
  split
  · exact requestWaits_forward s
  · exact ⟨rfl, id⟩

theorem requestWaits_finishTick (order : TickOrder) (s : State) : requestWaits s (finishTick order s) := by
  cases order with
  | ppuFirst => exact ⟨rfl, id⟩
  | cpuFirst => exact requestWaits_forward s

/-- Away from a boundary a request waits, and PC does not move. -/
theorem step_idle_requestWaits {s : State} (h : ¬ atBoundary s) : ∃ t, step s = .next t ∧ requestWaits s t := by
  refine ⟨_, step_idle h, requestWaits_trans (requestWaits_trans (requestWaits_cpuCycleState s) ?count)
    (requestWaits_finishTick _ _)⟩
  case count => split <;> exact ⟨rfl, id⟩

/-- Settles O7: the boundary by `step_boundary`, the latch after the entry by `enterNmi_nmiPending`, every other tick by
`step_idle_requestWaits`. -/
theorem nmiIsServicedAtTheBoundary : Obligations.NmiIsServicedAtTheBoundary := by
  unfold Obligations.NmiIsServicedAtTheBoundary
  refine fun s => ⟨fun h hpending => ⟨?entry, enterNmi_nmiPending _⟩, fun h hpending => ?fetch, fun hcountdown => ?waits⟩
  case entry =>
    rw [step_boundary h, if_pos hpending]
    rfl
  case fetch => rw [step_boundary h, hpending, if_neg Bool.false_ne_true]
  case waits => exact step_idle_requestWaits fun h => absurd h.2 hcountdown.ne'

end Sys2Proof.Machine

/-! PROOFS. Encoding (O1, O3): dispatch entries are the well-formed instructions, and decoding undoes encoding. -/

namespace Sys2Proof.Machine

/-- Settles O1: a well-formed instruction is a dispatch entry, and whatever decodes is one; an entry's encoding is its
opcode with the operand bytes that the opcode has. -/
theorem decodeAndEncodeAgree : Obligations.DecodeAndEncodeAgree := by
  unfold Obligations.DecodeAndEncodeAgree
  refine ⟨fun i rest h => ?encoded, fun bytes i rest h => ?decoded⟩
  case encoded =>
    obtain ⟨op, b1, b2, -, rfl⟩ := dispatch_of_wellFormed i h
    exact ⟨_, encode_dispatch op b1 b2, decode_bytes op b1 b2 rest⟩
  case decoded =>
    obtain ⟨op, b1, b2, rfl, rfl⟩ := decode_eq_ok h
    obtain ⟨-, hwellFormed, -⟩ := dispatch_entry b1 b2 op
    exact ⟨hwellFormed, _, encode_dispatch op b1 b2, rfl⟩

/-- Settles O3: the decoder computes each of the thirteen words. -/
theorem specWordsDecode : Obligations.SpecWordsDecode := by
  unfold Obligations.SpecWordsDecode
  exact ⟨rfl, rfl, rfl, rfl, rfl, rfl, rfl, rfl, rfl, rfl, rfl, rfl, rfl⟩

end Sys2Proof.Machine

/-! PROOFS. The step as a whole (O5, O6, O55, O56, O58, O59): the frame of what surrounds the CPU part of a tick, and what
every step keeps. -/

namespace Sys2Proof.Machine

/-! ## What surrounds the CPU part of a tick (R575, R577) -/

/-- Before the CPU cycle at most the PPU and the NMI latch have changed. -/
theorem cpuCycleState_frame (s : State) :
    ∃ p n, cpuCycleState s = { s with ppu := p, cpu := { s.cpu with nmiPending := n } } := by
  unfold cpuCycleState
  split
  · exact ⟨_, _, forward_dotPart s⟩
  · exact ⟨_, _, rfl⟩

/-- After it the PPU and the NMI latch may change, and the tick is counted. -/
theorem finishTick_frame (order : TickOrder) (s : State) :
    ∃ p n, finishTick order s =
      { s with ppu := p, cpu := { s.cpu with nmiPending := n }, clockCounter := s.clockCounter + 1 } := by
  cases order with
  | ppuFirst => exact ⟨_, _, rfl⟩
  | cpuFirst =>
    exact ⟨{ ppuDot s.cart s.ppu with nmiOut := false }, s.cpu.nmiPending || (ppuDot s.cart s.ppu).nmiOut,
      congrArg countTick (forward_dotPart s)⟩

/-! ## The invariant (R34, R35, R42, R58) -/

theorem cpuCycleState_inv {s : State} (h : s.inv = true) : (cpuCycleState s).inv = true := by
  unfold cpuCycleState
  split
  · exact forward_dotPart_inv h
  · exact h

theorem finishTick_inv (order : TickOrder) {s : State} (h : s.inv = true) : (finishTick order s).inv = true := by
  cases order with
  | ppuFirst => exact countTick_inv h
  | cpuFirst => exact countTick_inv (forward_dotPart_inv h)

/-- Settles O56: the dot keeps the invariant, and so does whatever the CPU part reads, writes and changes of its
registers (`Touches.inv`). -/
theorem stepKeepsTheInvariant : Obligations.StepKeepsTheInvariant := by
  unfold Obligations.StepKeepsTheInvariant
  intro s t hs h
  obtain ⟨u, htouches, rfl⟩ := step_next h
  exact finishTick_inv _ (htouches.inv (cpuCycleState_inv hs))

/-- Settles O55: the empty memories and P = 0x20 of the reset state, evaluated. -/
theorem resetIsSound : Obligations.ResetIsSound := by
  unfold Obligations.ResetIsSound
  decide

/-! ## The constants (R7, R17, R58, R59) -/

/-- The parameters, the buttons and the cartridge's constants are the same. -/
def sameConstants (s t : State) : Prop :=
  t.params = s.params ∧ t.ctl.buttons0 = s.ctl.buttons0 ∧ t.ctl.buttons1 = s.ctl.buttons1 ∧
    t.cart.map Cartridge.constants = s.cart.map Cartridge.constants

theorem sameConstants_trans {s t u : State} (h : sameConstants s t) (h' : sameConstants t u) : sameConstants s u := by
  obtain ⟨hparams, hbuttons0, hbuttons1, hcart⟩ := h
  obtain ⟨hparams', hbuttons0', hbuttons1', hcart'⟩ := h'
  exact ⟨hparams'.trans hparams, hbuttons0'.trans hbuttons0, hbuttons1'.trans hbuttons1, hcart'.trans hcart⟩

theorem Touches.sameConstants {s t : State} (h : Touches s t) : sameConstants s t :=
  ⟨h.params, h.buttons.1, h.buttons.2, h.constants⟩

theorem sameConstants_cpuCycleState (s : State) : sameConstants s (cpuCycleState s) := by
  obtain ⟨p, n, e⟩ := cpuCycleState_frame s
  rw [e]
  exact ⟨rfl, rfl, rfl, rfl⟩

theorem sameConstants_finishTick (order : TickOrder) (s : State) : sameConstants s (finishTick order s) := by
  obtain ⟨p, n, e⟩ := finishTick_frame order s
  rw [e]
  exact ⟨rfl, rfl, rfl, rfl⟩

/-- Settles O58: neither the CPU part, by `Touches.sameConstants`, nor what surrounds it changes a constant. -/
theorem stepKeepsTheConstants : Obligations.StepKeepsTheConstants := by
  unfold Obligations.StepKeepsTheConstants
  intro s t h
  obtain ⟨u, htouches, rfl⟩ := step_next h
  exact sameConstants_trans (sameConstants_trans (sameConstants_cpuCycleState s) htouches.sameConstants)
    (sameConstants_finishTick _ u)

/-! ## How a step ends (R13, R368, R520) -/

/-- An instruction gives a next state, or it is an unassigned opcode that the policy refuses. -/
theorem executeInstruction_total (s : State) :
    (∃ t, executeInstruction s = .next t) ∨
      (s.params.illegalPolicy = .refuse ∧
        ∃ op : Byte, op.toNat ∈ unassignedOpcodes ∧ executeInstruction s = .refused (.illegalOpcode op)) := by
  unfold executeInstruction
  obtain hnext | ⟨op, hdispatch, hpolicy, hrefused⟩ :=
    exec_total (fetchedInstr s) ((fetchInstruction s).after.setCountdown (fetchedInstr s).baseCycles)
  · exact .inl hnext
  · obtain ⟨rfl, hmem⟩ := dispatch_eq_unassigned hdispatch
    rw [State.setCountdown_params, (fetchInstruction_touches s).params] at hpolicy
    exact .inr ⟨hpolicy, _, hmem, hrefused⟩

/-- Settles O59: a tick ends as `executeInstruction_total` where it runs an instruction, and in a next state elsewhere. -/
theorem stepNeverFaults : Obligations.StepNeverFaults := by
  unfold Obligations.StepNeverFaults
  intro s
  by_cases hboundary : atBoundary s
  case neg => exact .inl ⟨_, step_idle hboundary⟩
  case pos =>
    rw [step_boundary hboundary]
    split
    · exact .inl ⟨_, rfl⟩
    · obtain ⟨t, ht⟩ | ⟨hpolicy, op, hop, hrefused⟩ := executeInstruction_total (cpuCycleState s)
      · exact .inl ⟨_, by rw [ht]; rfl⟩
      · rw [cpuCycleState_params] at hpolicy
        exact .inr ⟨hpolicy, op, hop, by rw [hrefused]; rfl⟩

/-! ## A step at a boundary and away from one -/

/-- Settles O5: what is fetched decodes to one instruction only, and `step_boundary` runs it. -/
theorem stepRunsTheDecodedInstruction : Obligations.StepRunsTheDecodedInstruction := by
  unfold Obligations.StepRunsTheDecodedInstruction
  intro s i hboundary hpending hdecode
  have hi : fetchedInstr (cpuCycleState s) = i :=
    congrArg Prod.fst (Except.ok.inj ((fetchInstruction_decode _).symm.trans hdecode))
  rw [step_boundary hboundary, hpending, if_neg Bool.false_ne_true, executeInstruction, hi]

/-- A tick that starts no instruction: a dot, the NMI forward and, on every third tick, one cycle of the countdown. -/
def idleTick (s : State) : State :=
  { s with
    ppu := { ppuDot s.cart s.ppu with nmiOut := false }
    cpu := { s.cpu with
      countdown := if s.clockCounter % 3 = 0 then s.cpu.countdown - 1 else s.cpu.countdown
      nmiPending := s.cpu.nmiPending || (ppuDot s.cart s.ppu).nmiOut }
    clockCounter := s.clockCounter + 1 }

/-- Away from a boundary both tick orders come to the same. -/
theorem step_of_not_boundary {s : State} (h : ¬ atBoundary s) : step s = .next (idleTick s) := by
  rw [step_idle h, cpuCycleState, idleTick]
  congr 1
  cases s.params.tickOrder with
  | ppuFirst | cpuFirst =>
    simp only [finishTick, forward_dotPart]
    split <;> rfl

/-- Settles O6: the tick is `idleTick`. -/
theorem tickWithoutAnInstruction : Obligations.TickWithoutAnInstruction := by
  unfold Obligations.TickWithoutAnInstruction
  exact fun s h => ⟨idleTick s, step_of_not_boundary h, rfl, rfl, rfl, rfl, rfl, rfl, rfl, rfl⟩

end Sys2Proof.Machine

/-! PROOFS. Fetching an instruction (O4): its bytes are those at PC. -/

namespace Sys2Proof.Machine

/-- A fetch takes the opcode and its operand bytes one after the other. -/
theorem fetchInstruction_eq_fetchBytes (s : State) :
    fetchInstruction s = fetchBytes (operandCount (busRead s.cpu.pc s) + 1) s := rfl

/-- Settles O4: what is fetched decodes by `fetchInstruction_decode`; PC and the bytes are those of `fetchBytes`. -/
theorem fetchReadsTheBytesAtPc : Obligations.FetchReadsTheBytesAtPc := by
  unfold Obligations.FetchReadsTheBytesAtPc
  refine fun s => ⟨⟨_, fetchInstruction_decode s⟩, ?registers, fun hcode => ?memory⟩
  case registers => rw [fetchInstruction_eq_fetchBytes, fetchBytes_cpu, Nat.add_comm]
  case memory =>
    obtain ⟨hbytes, houtside⟩ := fetchBytes_memory _ s fun k hk => hcode k (Nat.le_of_lt_succ hk)
    refine ⟨?bytes, houtside⟩
    have hcount := operandCount_le (busRead s.cpu.pc s)
    rw [fetchInstruction_eq_fetchBytes, hbytes]
    generalize operandCount (busRead s.cpu.pc s) = n at hcount
    have hpc : s.cpu.pc + BitVec.ofNat 16 0 = s.cpu.pc := BitVec.add_zero _
    interval_cases n <;> simp only [List.range_succ, List.range_zero, List.nil_append, List.cons_append, List.map_cons,
      List.map_nil, hpc] <;> rfl

end Sys2Proof.Machine

/-! PROOFS. Returning from a handler (O11): RTI undoes what either entry pushed. -/

namespace Sys2Proof.Machine

open Bits

/-- RTI with SP and the three slots as the entry left them restores P and SP and goes to the return address, whatever
Break was pushed as (R529). -/
theorem rti_after_interrupt {s e h : State} {returnTo vector : Word} {brk : Bool} (hs : s.inv = true)
    (heffect : interruptEffect returnTo brk vector s e) (hsp : h.cpu.sp = e.cpu.sp)
    (hslots : ∀ sp ∈ [s.cpu.sp, s.cpu.sp - 1, s.cpu.sp - 2], stackByte sp h = stackByte sp e) :
    ∃ t, exec .rti h = .next t ∧ t.cpu.p = s.cpu.p ∧ t.cpu.pc = returnTo ∧ t.cpu.sp = s.cpu.sp := by
  obtain ⟨-, -, -, hentrySp, -, -, -, hhigh, hlow, ⟨status, hstatus, hflags⟩, -⟩ := heffect
  rw [slotHolds_iff] at hhigh hlow hstatus
  simp only [List.forall_mem_cons, List.not_mem_nil, false_imp_iff, implies_true, and_true] at hslots
  obtain ⟨hslot0, hslot1, hslot2⟩ := hslots
  have hsp1 : h.cpu.sp + 1 = s.cpu.sp - 2 := by rw [hsp, hentrySp]; ring
  have hsp2 : h.cpu.sp + 2 = s.cpu.sp - 1 := by rw [hsp, hentrySp]; ring
  have hsp3 : h.cpu.sp + 3 = s.cpu.sp := by rw [hsp, hentrySp]; ring
  refine ⟨_, exec_rti h, ?status, ?pc, hsp3⟩
  case status =>
    rw [State.setPc_p, State.setP_p, hsp1, hslot2, hstatus]
    exact restored_pushed hs status fun f hb hu => by rw [hflags, if_neg hb, if_neg hu]
  case pc => rw [State.setPc_pc, hsp3, hsp2, hslot0, hslot1, hhigh, hlow, word_bytes]

/-- Settles O11: both entries have the effect that `rti_after_interrupt` asks for. -/
theorem handlerReturnRestoresPAndPc : Obligations.HandlerReturnRestoresPAndPc := by
  unfold Obligations.HandlerReturnRestoresPAndPc
  refine fun s h u hs => ⟨fun hsp hslots => ?nmi, fun hbrk hsp hslots => ?brk⟩
  case nmi => exact rti_after_interrupt hs (nmiEntry s hs).1 hsp hslots
  case brk =>
    obtain ⟨-, -, hentry⟩ := breakIsASoftwareInterrupt
    obtain ⟨t, ht, heffect, -⟩ := hentry s hs
    obtain rfl : t = u := by cases ht.symm.trans hbrk; rfl
    exact rti_after_interrupt hs heffect hsp hslots

end Sys2Proof.Machine

/-! PROOFS. Addressing modes (O31, O32): effective addresses as integers, and the penalty of a sum that leaves its page. -/

namespace Sys2Proof.Machine

open Bits

theorem toNat_add_zext16 (w : Word) (x : Byte) : (w + zext16 x).toNat = (w.toNat + x.toNat) % 65536 := by
  rw [BitVec.toNat_add, zext16_toNat]

/-- Settles O31: a zero-page sum is one of bytes, an indexed sum one of words, and a pointer is `pointer_toNat`. -/
theorem effectiveAddresses : Obligations.EffectiveAddresses := by
  unfold Obligations.EffectiveAddresses
  refine fun b w s => ⟨zext16_toNat b, ?zpx, ?zpy, rfl, toNat_add_zext16 w _, toNat_add_zext16 w _, ?izx, ?izy,
    fun m => afterEa_eq m s⟩
  case zpx => exact (zext16_toNat _).trans (BitVec.toNat_add b _)
  case zpy => exact (zext16_toNat _).trans (BitVec.toNat_add b _)
  case izx =>
    have hsum : (b + s.cpu.x).toNat = (b.toNat + s.cpu.x.toNat) % 256 := BitVec.toNat_add b _
    have hpointer := pointer_toNat (b + s.cpu.x) s
    rwa [hsum, Nat.mod_add_mod] at hpointer
  case izy => exact (toNat_add_zext16 _ _).trans (by rw [baseAddress, pointer_toNat])

/-- No mode adds a cycle by default (R184). -/
theorem pageCrossCycles_off {s : State} (h : s.params.pageCrossPenalty = false) (m : MemMode) :
    pageCrossCycles m s = 0 := by
  rw [pageCrossCycles, h]; rfl

/-- A mode without an index after the base has no page to leave. -/
theorem pageCrossCycles_of_base {m : MemMode} {s : State} (h : ea m s = baseAddress m s) : pageCrossCycles m s = 0 := by
  rw [pageCrossCycles, h, decide_eq_false (not_not.2 rfl), Bool.and_false]; rfl

/-- A mode that adds an index to its base: one cycle when the sum leaves the page of the base. -/
theorem pageCrossCycles_of_index {m : MemMode} {s : State} {x : Byte} (hon : s.params.pageCrossPenalty = true)
    (h : ea m s = baseAddress m s + zext16 x) :
    pageCrossCycles m s = if (baseAddress m s).toNat % 256 + x.toNat < 256 then 0 else 1 := by
  rw [pageCrossCycles, hon, h, Bool.true_and]
  simp only [decide_eq_true_eq, page_ne, ite_not]

/-- Settles O32: the modes split by whether an index is added to the base; the base of IZY is a pointer, whose low byte
counts. -/
theorem pageCrossPenalty : Obligations.PageCrossPenalty := by
  unfold Obligations.PageCrossPenalty
  refine fun m b w s => ⟨fun hoff => pageCrossCycles_off hoff m, fun hon => ⟨pageCrossCycles_of_base rfl,
    pageCrossCycles_of_base rfl, pageCrossCycles_of_base rfl, pageCrossCycles_of_base rfl, pageCrossCycles_of_base rfl,
    pageCrossCycles_of_index hon rfl, pageCrossCycles_of_index hon rfl, ?izy⟩⟩
  case izy =>
    have hlow : (baseAddress (.izy b) s).toNat % 256 = (Cells.read s.ram b.toNat).toNat := by
      rw [baseAddress, pointer_toNat]
      omega
    rw [pageCrossCycles_of_index hon rfl, hlow]

end Sys2Proof.Machine

/-! PROOFS. The controller ports (O36): the strobe, one read, and a sequence of reads. -/

namespace Sys2Proof.Machine

/-- A shifter after one read with the strobe low: moved up, a 1 filled in (R93). -/
def shiftedIn (m : Byte) : Byte := (m <<< 1) ||| 0x01

theorem movedUp_shiftedIn (m : Byte) : movedUp true m (shiftedIn m) := movedUp_rol true m

/-- After `n` reads the top bit is the n-th one below it, or one of the 1s that were filled in. -/
theorem topBit_iterate_shiftedIn (n : Nat) (m : Byte) :
    (shiftedIn^[n] m).getLsbD 7 = if n < 8 then m.getLsbD (7 - n) else true := by
  have hbit : ∀ n k, k < 8 → (shiftedIn^[n] m).getLsbD k = if n ≤ k then m.getLsbD (k - n) else true := by
    intro n
    induction n with
    | zero => intro k _; rfl
    | succ n ih =>
      intro k hk
      obtain ⟨hbottom, hup⟩ := movedUp_shiftedIn (shiftedIn^[n] m)
      rw [Function.iterate_succ_apply']
      cases k with
      | zero => exact hbottom
      | succ k =>
        rw [hup k (by omega), ih k (by omega), Nat.add_sub_add_right]
        simp only [Nat.add_le_add_iff_right]
  rw [hbit n 7 (by omega)]
  simp only [Nat.lt_succ_iff]

section
variable {a : Word} {n : Port} {s : State}

theorem busRead_port (h : target a = .port n) : busRead a s = ctlReadByte s.ctl n := by rw [busRead, h]

theorem afterRead_port (h : target a = .port n) : afterRead a s = s.setCtl (ctlReadEffect s.ctl n) := by
  rw [afterRead, h]

/-- With the strobe high a read gives button A and changes nothing (R93). -/
theorem portRead_high (h : target a = .port n) (hs : s.ctl.strobe = true) :
    busRead a s = (BitVec.ofBool ((s.ctl.buttons n).getLsbD 7)).setWidth 8 ∧ afterRead a s = s := by
  rw [busRead_port h, afterRead_port h, ctlReadByte, ctlReadEffect, hs]
  exact ⟨rfl, rfl⟩

/-- With the strobe low a read gives the shifter's top bit and shifts it (R93). -/
theorem portRead_low (h : target a = .port n) (hs : s.ctl.strobe = false) :
    busRead a s = (BitVec.ofBool ((s.ctl.shift n).getLsbD 7)).setWidth 8 ∧
      afterRead a s = s.setCtl (s.ctl.setShift n (shiftedIn (s.ctl.shift n))) := by
  rw [busRead_port h, afterRead_port h, ctlReadByte, ctlReadEffect, hs]
  exact ⟨rfl, rfl⟩

theorem shift_setShift (c : Controllers) (n : Port) (v : Byte) :
    (c.setShift n v).strobe = c.strobe ∧ (c.setShift n v).shift n = v := by
  cases n <;> exact ⟨rfl, rfl⟩

/-- Any number of reads with the strobe low. -/
theorem iterate_portRead (h : target a = .port n) (hs : s.ctl.strobe = false) (k : Nat) :
    ((afterRead a)^[k] s).ctl.strobe = false ∧
      ((afterRead a)^[k] s).ctl.shift n = shiftedIn^[k] (s.ctl.shift n) := by
  induction k with
  | zero => exact ⟨hs, rfl⟩
  | succ k ih =>
    obtain ⟨hstrobe, hshift⟩ := ih
    obtain ⟨-, hread⟩ := portRead_low h hstrobe
    obtain ⟨hkept, hset⟩ := shift_setShift ((afterRead a)^[k] s).ctl n (shiftedIn (((afterRead a)^[k] s).ctl.shift n))
    rw [Function.iterate_succ_apply', Function.iterate_succ_apply', hread, State.setCtl_ctl, hkept, hset, hshift]
    exact ⟨hstrobe, rfl⟩

/-- The k-th read of a port whose shifter holds its buttons: A down to Right, then 1s. -/
theorem nthPortRead (h : target a = .port n) (hs : s.ctl.strobe = false) (k : Nat) :
    busRead a ((afterRead a)^[k] s) =
      (BitVec.ofBool (if k < 8 then (s.ctl.shift n).getLsbD (7 - k) else true)).setWidth 8 := by
  obtain ⟨hstrobe, hshift⟩ := iterate_portRead h hs k
  rw [(portRead_low h hstrobe).1, hshift, topBit_iterate_shiftedIn]

end

/-- A write to 0x4016: the strobe, and both shifters reloaded while it is or becomes high (R92). -/
theorem busWrite_strobe (v : Byte) (s : State) :
    busWrite 0x4016 v s = s.setCtl
      { s.ctl with
        strobe := v.getLsbD 0
        shift0 := if s.ctl.strobe || v.getLsbD 0 then s.ctl.buttons0 else s.ctl.shift0
        shift1 := if s.ctl.strobe || v.getLsbD 0 then s.ctl.buttons1 else s.ctl.shift1 } := by
  have htarget : target 0x4016 = .port .zero := by decide
  rw [busWrite, htarget]
  simp only [ctlWrite]
  split <;> rfl

/-- Settles O36: one read by the strobe's level; after a strobe of 1 and 0 each shifter holds its buttons, and the n-th
read is `nthPortRead`. -/
theorem controllerProtocol : Obligations.ControllerProtocol := by
  unfold Obligations.ControllerProtocol
  have h0 : target 0x4016 = .port .zero := by decide
  have h1 : target 0x4017 = .port .one := by decide
  refine fun s v n => ⟨busWrite_strobe v s, fun hs => ?high, fun hs => ?low, ?sequence⟩
  case high =>
    obtain ⟨hread0, hafter0⟩ := portRead_high h0 hs
    obtain ⟨hread1, hafter1⟩ := portRead_high h1 hs
    exact ⟨hread0, hafter0, hread1, hafter1⟩
  case low =>
    obtain ⟨hread0, hafter0⟩ := portRead_low h0 hs
    obtain ⟨hread1, hafter1⟩ := portRead_low h1 hs
    exact ⟨hread0, ⟨_, movedUp_shiftedIn _, hafter0⟩, hread1, _, movedUp_shiftedIn _, hafter1⟩
  case sequence =>
    simp only [busWrite_strobe]
    exact ⟨nthPortRead h0 rfl n, nthPortRead h1 rfl n⟩

end Sys2Proof.Machine

/-! PROOFS. The scroll position (O41, O42): each step on the fields of v, and the dots that take one. -/

namespace Sys2Proof.Machine

open Bits

/-! ## The steps, field by field (R459, R461 to R463) -/

section
variable (v t : BitVec 15)

theorem incXOf_eq :
    incXOf v =
      if coarseX v = 31 then putField (putField v 0 (0 : BitVec 5)) 10 (BitVec.ofBool (!nametableX v))
      else putField v 0 (coarseX v + 1) := rfl

theorem fineY_lt_iff : (fineY v).toNat < 7 ↔ fineY v ≠ 7 := by bv_omega

theorem incYOf_of_ne {v : BitVec 15} (h : fineY v ≠ 7) : incYOf v = putField v 12 (fineY v + 1) :=
  if_pos ((fineY_lt_iff v).2 h)

/-- Fine Y wraps and carries into coarse Y, which ends at 29 with a flip of nametable Y, or wraps at 31 (R461). -/
theorem incYOf_of_eq {v : BitVec 15} (h : fineY v = 7) :
    incYOf v =
      if coarseY v = 29 then
        putField (putField (putField v 12 (0 : BitVec 3)) 11 (BitVec.ofBool (!nametableY v))) 5 (0 : BitVec 5)
      else if coarseY v = 31 then putField (putField v 12 (0 : BitVec 3)) 5 (0 : BitVec 5)
      else putField (putField v 12 (0 : BitVec 3)) 5 (coarseY v + 1) := by
  rw [← coarseY_putFineY v 0, ← nametableY_putFineY v 0]
  exact if_neg fun hlt => (fineY_lt_iff v).1 hlt h

theorem extractLsb'_one {n : Nat} (v : BitVec n) (i : Nat) : v.extractLsb' i 1 = BitVec.ofBool (v.getLsbD i) := by
  apply BitVec.eq_of_getLsbD_eq
  intro k hk
  obtain rfl : k = 0 := by omega
  simp

theorem copyXOf_eq :
    copyXOf v t = putField (putField v 0 (coarseX t)) 10 (BitVec.ofBool (nametableX t)) := by
  rw [nametableX, ← extractLsb'_one]; rfl

theorem copyYOf_eq :
    copyYOf v t =
      putField (putField (putField v 5 (coarseY t)) 12 (fineY t)) 11 (BitVec.ofBool (nametableY t)) := by
  rw [nametableY, ← extractLsb'_one]; rfl

end

/-- Settles O41: each step writes fields, and each field is read by the laws of `putField`. -/
theorem scrollStepsOnTheFields : Obligations.ScrollStepsOnTheFields := by
  unfold Obligations.ScrollStepsOnTheFields
  refine fun v t => ⟨?incX, ?incY, ?copyX, ?copyY⟩
  case incX =>
    rw [incXOf_eq]
    split <;> simp
  case incY =>
    by_cases hfine : fineY v = 7
    · rw [incYOf_of_eq hfine]
      split_ifs <;> simp_all
    · rw [incYOf_of_ne hfine]
      simp_all
  case copyX =>
    rw [copyXOf_eq]
    simp
  case copyY =>
    rw [copyYOf_eq]
    simp

/-! ## The dots that move v (R450, R453) -/

section
variable (cart : Option Cartridge) {p : Ppu}

theorem ppuDot_v_of_renderLine (h : p.onRenderLine) :
    (ppuDot cart p).v = (renderLine cart p.scanline.val p.dot.val p).v := by
  obtain ⟨-, e⟩ | ⟨-, -, -, e⟩ | ⟨hs, hd, e⟩ | ⟨hs, -, -⟩ | ⟨hn, -⟩ := ppuDot_cases cart p
  · rw [e]; simp
  · rw [e, advance_v]
  · rw [e, hs, hd, advance_v, renderLine_v, renderLine_v]; rfl
  · rcases h with h | h <;> omega
  · exact absurd h hn

theorem ppuDot_v_of_not_renderLine (h : ¬ p.onRenderLine) : (ppuDot cart p).v = p.v := by
  obtain ⟨⟨hline, -⟩, -⟩ | ⟨hline, -⟩ | ⟨hs, -⟩ | ⟨-, -, e⟩ | ⟨-, -, e⟩ := ppuDot_cases cart p
  · exact absurd (.inl hline) h
  · exact absurd hline h
  · exact absurd (.inr hs) h
  · rw [e]; simp
  · rw [e, advance_v]

end

/-- Settles O42: v by `renderLine_v` on a render line and kept elsewhere; the registers and memories dot by dot. -/
theorem dotMovesVAndLeavesTheRegisters : Obligations.DotMovesVAndLeavesTheRegisters := by
  unfold Obligations.DotMovesVAndLeavesTheRegisters
  refine fun cart p => ⟨fun hoff => ?kept, fun hline hrendering => ?moved, by simp⟩
  case kept =>
    by_cases hline : p.onRenderLine
    · rw [ppuDot_v_of_renderLine cart hline, renderLine_v, if_neg fun hrendering => hoff ⟨hline, hrendering⟩]
    · exact ppuDot_v_of_not_renderLine cart hline
  case moved => rw [ppuDot_v_of_renderLine cart hline, renderLine_v, if_pos hrendering]

end Sys2Proof.Machine

/-! PROOFS. What an instruction does to the CPU (O57, O60): the registers and flags it may write, and the cycles it may
add. -/

namespace Sys2Proof.Machine

/-! ## Registers (R30, R31) -/

/-- Of A, X, Y and SP only those change that the instruction may write; the NMI latch is kept. -/
def writesOnly (i : Instr) (c d : Cpu) : Prop :=
  (d.a ≠ c.a → writesA i = true) ∧ (d.x ≠ c.x → writesX i = true) ∧ (d.y ≠ c.y → writesY i = true) ∧
    (d.sp ≠ c.sp → writesSp i = true) ∧ d.nmiPending = c.nmiPending

section
variable {i : Instr} {c d : Cpu}

theorem writesOnly_none (hd : d = { c with pc := d.pc, p := d.p, countdown := d.countdown }) : writesOnly i c d := by
  rw [hd]
  exact ⟨fun h => absurd rfl h, fun h => absurd rfl h, fun h => absurd rfl h, fun h => absurd rfl h, rfl⟩

theorem writesOnly_a (h : writesA i = true)
    (hd : d = { c with a := d.a, pc := d.pc, p := d.p, countdown := d.countdown }) : writesOnly i c d := by
  rw [hd]
  exact ⟨fun _ => h, fun h => absurd rfl h, fun h => absurd rfl h, fun h => absurd rfl h, rfl⟩

theorem writesOnly_x (h : writesX i = true)
    (hd : d = { c with x := d.x, pc := d.pc, p := d.p, countdown := d.countdown }) : writesOnly i c d := by
  rw [hd]
  exact ⟨fun h => absurd rfl h, fun _ => h, fun h => absurd rfl h, fun h => absurd rfl h, rfl⟩

theorem writesOnly_y (h : writesY i = true)
    (hd : d = { c with y := d.y, pc := d.pc, p := d.p, countdown := d.countdown }) : writesOnly i c d := by
  rw [hd]
  exact ⟨fun h => absurd rfl h, fun h => absurd rfl h, fun _ => h, fun h => absurd rfl h, rfl⟩

theorem writesOnly_sp (h : writesSp i = true)
    (hd : d = { c with sp := d.sp, pc := d.pc, p := d.p, countdown := d.countdown }) : writesOnly i c d := by
  rw [hd]
  exact ⟨fun h => absurd rfl h, fun h => absurd rfl h, fun h => absurd rfl h, fun _ => h, rfl⟩

end

/-! ## Flags (R38) -/

/-- A rewriting of P that keeps every flag outside the list. -/
def keepsFlags (written : List Flag) (f : Byte → Byte) : Prop := ∀ p g, g ∉ written → getFlag g (f p) = getFlag g p

theorem keepsFlags_id (written : List Flag) : keepsFlags written id := fun _ _ _ => rfl

theorem keepsFlags_putNZ (r : Byte) : keepsFlags [.n, .z] (putNZ r) := by
  intro p g hg
  simp only [List.mem_cons, List.not_mem_nil, or_false, not_or] at hg
  simp [hg]

theorem keepsFlags_putSum (a m : Byte) : keepsFlags [.n, .v, .z, .c] (putSum a m) := by
  intro p g hg
  simp only [List.mem_cons, List.not_mem_nil, or_false, not_or] at hg
  simp [hg]

theorem keepsFlags_putCompare (reg m : Byte) : keepsFlags [.n, .z, .c] (putCompare reg m) := by
  intro p g hg
  simp only [List.mem_cons, List.not_mem_nil, or_false, not_or] at hg
  simp [hg]

theorem keepsFlags_putBit (a m : Byte) : keepsFlags [.n, .v, .z] (putBit a m) := by
  intro p g hg
  simp only [List.mem_cons, List.not_mem_nil, or_false, not_or] at hg
  simp [hg]

theorem keepsFlags_putShift (out : Bool) (r : Byte) : keepsFlags [.n, .z, .c] (putShift out r) := by
  intro p g hg
  simp only [List.mem_cons, List.not_mem_nil, or_false, not_or] at hg
  simp [hg]

theorem keepsFlags_putFlag (f : Flag) (b : Bool) : keepsFlags [f] (putFlag f b) := by
  intro p g hg
  rw [getFlag_putFlag, if_neg (List.ne_of_not_mem_cons hg)]

/-- P restored from a pulled byte keeps the two hard-wired flags of a sound P (R34, R35). -/
theorem flagsKept_restored {s t : State} {b : Byte} (hs : s.inv = true) (ht : t.cpu.p = restored b) :
    flagsKept [.n, .v, .z, .c, .i, .d] s t := by
  have hsound := (inv_iff s).1 hs
  intro f hf
  rw [State.flag, ht, getFlag_restored]
  cases f with
  | u => exact hsound.unused.symm
  | b => exact hsound.brk.symm
  | c | z | i | d | v | n => exact absurd (by decide) hf

/-! ## Instructions, group by group -/

/-- What an instruction does to the CPU: the registers and flags it may write; of the countdown, the most it adds is the
stall of one OAM DMA (R86). -/
structure CpuEffect (i : Instr) (s t : State) : Prop where
  registers : writesOnly i s.cpu t.cpu
  flags : s.inv = true → flagsKept (flagsWritten i) s t
  countdown : t.cpu.countdown ≤ s.cpu.countdown + Config.oamDmaStall

theorem pageCrossCycles_le (m : MemMode) (s : State) : pageCrossCycles m s ≤ 1 := by
  unfold pageCrossCycles
  split <;> decide

theorem operandCycles_le (o : Src) (s : State) : operandCycles o s ≤ 1 := by
  cases o with
  | imm v => exact Nat.zero_le 1
  | mem m => exact pageCrossCycles_le m s

theorem branchCycles_le (op8 : Byte) (s : State) : branchCycles op8 s ≤ 2 := by
  unfold branchCycles
  split_ifs <;> decide

namespace CpuEffect

variable {i : Instr} {s t : State} {f : Byte → Byte}

/-- P was rewritten by a flag operation of the instruction. -/
theorem of_status (hp : t.cpu.p = f s.cpu.p) (hf : keepsFlags (flagsWritten i) f) (hc : writesOnly i s.cpu t.cpu)
    (hcountdown : t.cpu.countdown ≤ s.cpu.countdown + Config.oamDmaStall) : CpuEffect i s t where
  registers := hc
  flags _ g hg := by rw [State.flag, hp, hf _ g hg]; rfl
  countdown := hcountdown

/-- P was rewritten, other registers changed, and no cycle was added. -/
theorem of_registers (hp : t.cpu.p = f s.cpu.p) (hf : keepsFlags (flagsWritten i) f) (hc : writesOnly i s.cpu t.cpu)
    (hcountdown : t.cpu.countdown = s.cpu.countdown) : CpuEffect i s t :=
  of_status hp hf hc (by rw [hcountdown]; exact Nat.le_add_right _ _)

/-- P was kept, other registers changed, and no cycle was added. -/
theorem of_keptP (hp : t.cpu.p = s.cpu.p) (hc : writesOnly i s.cpu t.cpu)
    (hcountdown : t.cpu.countdown = s.cpu.countdown) : CpuEffect i s t :=
  of_registers (f := id) hp (keepsFlags_id _) hc hcountdown

/-- P was restored from the stack. -/
theorem of_restored {b : Byte} (hp : t.cpu.p = restored b) (hwritten : flagsWritten i = [.n, .v, .z, .c, .i, .d])
    (hc : writesOnly i s.cpu t.cpu) (hcountdown : t.cpu.countdown = s.cpu.countdown) : CpuEffect i s t where
  registers := hc
  flags hs := hwritten ▸ flagsKept_restored hs hp
  countdown := by rw [hcountdown]; exact Nat.le_add_right _ _

/-- The operand was read, registers changed, P was rewritten. -/
theorem of_read {o : Src} {c : Cpu} (hp : c.p = s.cpu.p) (hf : keepsFlags (flagsWritten i) f)
    (hc : writesOnly i s.cpu c) : CpuEffect i s ((readInto o s c).mapP f) :=
  of_status (congrArg f hp) hf hc
    (Nat.add_le_add_left ((operandCycles_le o s).trans (by decide : 1 ≤ Config.oamDmaStall)) _)

/-- P was rewritten and no other register changed. -/
theorem of_mapP {u : State} (hu : u.cpu = s.cpu) (hf : keepsFlags (flagsWritten i) f) : CpuEffect i s (u.mapP f) := by
  refine of_registers (f := f) ?_ hf (writesOnly_none ?_) ?_ <;> simp only [State.mapP, State.setP, hu]

/-- PC was set and no other register changed. -/
theorem of_setPc {u : State} (w : Word) (hu : u.cpu = s.cpu) : CpuEffect i s (u.setPc w) := by
  refine of_keptP ?_ (writesOnly_none ?_) ?_ <;> simp only [State.setPc, hu]

/-- One bus write, then P rewritten. -/
theorem of_write {u : State} (a : Word) (v : Byte) (hu : u.cpu = s.cpu) (hf : keepsFlags (flagsWritten i) f) :
    CpuEffect i s ((busWrite a v u).mapP f) := by
  obtain ⟨hcpu, -, -⟩ := busWrite_frame a v u
  rw [hu] at hcpu
  refine of_status (f := f) ?status hf (writesOnly_none ?registers) ?countdown
  case status => rw [State.mapP_p, hcpu]
  case registers => simp only [State.mapP, State.setP, hcpu]
  case countdown =>
    rw [State.mapP_countdown, hcpu]
    refine Nat.add_le_add_left ?_ _
    split
    · exact le_rfl
    · exact Nat.zero_le _

theorem of_store (a : Word) (v : Byte) : CpuEffect i s (busWrite a v s) :=
  of_write (f := id) a v rfl (keepsFlags_id _)

theorem of_rmw {o : Rmw} (r : Byte) (hf : keepsFlags (flagsWritten i) f) (hacc : o = .acc → writesA i = true) :
    CpuEffect i s (rmwStore o f r s) := by
  cases o with
  | acc => exact of_registers rfl hf (writesOnly_a (hacc rfl) rfl) rfl
  | mem m =>
    rw [rmwStore_mem]
    exact of_write _ r (operandRead_cpu _ s) hf

theorem of_branch (cond : Bool) (op8 : Byte) : CpuEffect i s (branch cond op8 s) := by
  rw [branch_eq]
  cases cond with
  | false => exact of_keptP rfl (writesOnly_none rfl) rfl
  | true =>
    exact of_status (f := id) rfl (keepsFlags_id _) (writesOnly_none rfl)
      (Nat.add_le_add_left ((branchCycles_le op8 s).trans (by decide : 2 ≤ Config.oamDmaStall)) _)

theorem of_push (v : Byte) (h : writesSp i = true) : CpuEffect i s (push v s) := by
  rw [push_eq]
  exact of_keptP rfl (writesOnly_sp h rfl) rfl

end CpuEffect

open CpuEffect

/-- Every instruction that gives a next state does no more to the CPU than `CpuEffect` says. -/
theorem exec_cpuEffect {i : Instr} {s t : State} (h : exec i s = .next t) : CpuEffect i s t := by
  cases i with
  | lda o => cases (exec_lda o s).symm.trans h; exact of_read rfl (keepsFlags_putNZ _) (writesOnly_a rfl rfl)
  | ldx o => cases (exec_ldx o s).symm.trans h; exact of_read rfl (keepsFlags_putNZ _) (writesOnly_x rfl rfl)
  | ldy o => cases (exec_ldy o s).symm.trans h; exact of_read rfl (keepsFlags_putNZ _) (writesOnly_y rfl rfl)
  | sta o => cases (exec_sta o s).symm.trans h; exact of_store _ _
  | stx o => cases (exec_stx o s).symm.trans h; exact of_store _ _
  | sty o => cases (exec_sty o s).symm.trans h; exact of_store _ _
  | tax | tsx | inx | dex => cases h; exact of_registers rfl (keepsFlags_putNZ _) (writesOnly_x rfl rfl) rfl
  | tay | iny | dey => cases h; exact of_registers rfl (keepsFlags_putNZ _) (writesOnly_y rfl rfl) rfl
  | txa | tya => cases h; exact of_registers rfl (keepsFlags_putNZ _) (writesOnly_a rfl rfl) rfl
  | txs => cases h; exact of_keptP rfl (writesOnly_sp rfl rfl) rfl
  | adc o => cases (exec_adc o s).symm.trans h; exact of_read rfl (keepsFlags_putSum _ _) (writesOnly_a rfl rfl)
  | sbc o => cases (exec_sbc o s).symm.trans h; exact of_read rfl (keepsFlags_putSum _ _) (writesOnly_a rfl rfl)
  | and o => cases (exec_and o s).symm.trans h; exact of_read rfl (keepsFlags_putNZ _) (writesOnly_a rfl rfl)
  | ora o => cases (exec_ora o s).symm.trans h; exact of_read rfl (keepsFlags_putNZ _) (writesOnly_a rfl rfl)
  | eor o => cases (exec_eor o s).symm.trans h; exact of_read rfl (keepsFlags_putNZ _) (writesOnly_a rfl rfl)
  | bit o => cases (exec_bit o s).symm.trans h; exact of_mapP (operandRead_cpu _ s) (keepsFlags_putBit _ _)
  | cmp o => cases (exec_cmp o s).symm.trans h; exact of_read rfl (keepsFlags_putCompare _ _) (writesOnly_none rfl)
  | cpx o => cases (exec_cpx o s).symm.trans h; exact of_read rfl (keepsFlags_putCompare _ _) (writesOnly_none rfl)
  | cpy o => cases (exec_cpy o s).symm.trans h; exact of_read rfl (keepsFlags_putCompare _ _) (writesOnly_none rfl)
  | inc o => cases (exec_inc o s).symm.trans h; exact of_rmw _ (keepsFlags_putNZ _) nofun
  | dec o => cases (exec_dec o s).symm.trans h; exact of_rmw _ (keepsFlags_putNZ _) nofun
  | asl o => cases (exec_asl o s).symm.trans h; exact of_rmw _ (keepsFlags_putShift _ _) (by rintro rfl; rfl)
  | lsr o => cases (exec_lsr o s).symm.trans h; exact of_rmw _ (keepsFlags_putShift _ _) (by rintro rfl; rfl)
  | rol o => cases (exec_rol o s).symm.trans h; exact of_rmw _ (keepsFlags_putShift _ _) (by rintro rfl; rfl)
  | ror o => cases (exec_ror o s).symm.trans h; exact of_rmw _ (keepsFlags_putShift _ _) (by rintro rfl; rfl)
  | php | pha => cases h; exact of_push _ rfl
  | pla =>
    cases (exec_pla s).symm.trans h
    exact of_registers rfl (keepsFlags_putNZ _)
      ⟨fun _ => rfl, fun h => absurd rfl h, fun h => absurd rfl h, fun _ => rfl, rfl⟩ rfl
  | plp => cases (exec_plp s).symm.trans h; exact of_restored rfl rfl (writesOnly_sp rfl rfl) rfl
  | bcc op8 | bcs op8 | beq op8 | bmi op8 | bne op8 | bpl op8 | bvc op8 | bvs op8 => cases h; exact of_branch _ op8
  | jmp o =>
    cases o with
    | abs w => cases h; exact of_setPc w rfl
    | ind w => cases h; exact of_setPc _ (by rw [afterIndirect, afterRead_cpu, afterRead_cpu])
  | jsr w =>
    cases h
    rw [push16, push_eq, push_eq]
    exact of_keptP rfl (writesOnly_sp rfl rfl) rfl
  | rts => cases (exec_rts s).symm.trans h; exact of_keptP rfl (writesOnly_sp rfl rfl) rfl
  | rti => cases (exec_rti s).symm.trans h; exact of_restored rfl rfl (writesOnly_sp rfl rfl) rfl
  | brk =>
    cases h
    obtain ⟨-, -, -, -, hlow, hhigh⟩ := target_vectors
    rw [takeInterrupt_eq (vector := brkVector) _ _ s hlow hhigh]
    exact of_registers (f := putFlag .i true) rfl (keepsFlags_putFlag _ _) (writesOnly_sp rfl rfl) rfl
  | clc | sec | cli | sei | cld | sed | clv => cases h; exact of_mapP rfl (keepsFlags_putFlag _ _)
  | nop => cases h; exact of_keptP rfl (writesOnly_none rfl) rfl
  | unassigned op =>
    cases hpolicy : s.params.illegalPolicy with
    | nop => cases (exec_unassigned_nop op hpolicy).symm.trans h; exact of_keptP rfl (writesOnly_none rfl) rfl
    | refuse => cases (exec_unassigned_refuse op hpolicy).symm.trans h

/-- Settles O60: `exec_cpuEffect`, part by part. -/
theorem onlyTheseWriteRegistersAndFlags : Obligations.OnlyTheseWriteRegistersAndFlags := by
  unfold Obligations.OnlyTheseWriteRegistersAndFlags
  intro i s t hs h
  have heffect := exec_cpuEffect h
  obtain ⟨ha, hx, hy, hsp, hlatch⟩ := heffect.registers
  exact ⟨ha, hx, hy, hsp, heffect.flags hs, hlatch⟩

/-! ## The countdown (R39, R86) -/

theorem executeInstruction_countdown {s t : State} (h : executeInstruction s = .next t) :
    t.cpu.countdown ≤ 7 + Config.oamDmaStall := by
  obtain ⟨-, hbase⟩ := baseCycles_range (fetchedInstr s)
  exact (exec_cpuEffect h).countdown.trans (Nat.add_le_add_right hbase _)

/-- The CPU part of a tick keeps the bound: at a boundary a cycle of what was loaded is counted. -/
theorem cpuPart_countdown {s t : State} (hs : s.cpu.countdown ≤ maxCountdown) (h : cpuPart s = .next t) :
    t.cpu.countdown ≤ maxCountdown := by
  by_cases hboundary : atBoundary s
  case pos =>
    rw [cpuPart_boundary hboundary] at h
    obtain ⟨u, hu, rfl⟩ := andThen_next h
    refine Nat.sub_le_sub_right ?_ 1
    split at hu
    · cases hu; exact (by decide : 7 ≤ 7 + Config.oamDmaStall)
    · exact executeInstruction_countdown hu
  case neg =>
    cases (cpuPart_idle hboundary).symm.trans h
    split
    · exact (Nat.sub_le _ _).trans hs
    · exact hs

/-- Settles O57: `cpuPart_countdown`, as nothing else in a tick touches the countdown. -/
theorem countdownStaysBounded : Obligations.CountdownStaysBounded := by
  unfold Obligations.CountdownStaysBounded
  intro s t hs h
  rw [step_eq] at h
  obtain ⟨u, hu, rfl⟩ := andThen_next h
  have hbound := cpuPart_countdown (by rwa [cpuCycleState_countdown]) hu
  obtain ⟨p, n, e⟩ := finishTick_frame s.params.tickOrder u
  rw [e]
  exact hbound

end Sys2Proof.Machine

/-! PROOFS. Runs of ticks (O50, O51, O53): a run whose ticks all give a next state, and one that stays between two
boundaries. -/

namespace Sys2Proof.Machine

/-! ## Runs -/

theorem run_succ {M : Host.Core} {s t : M.State} (h : M.step s = .next t) (k : Nat) : M.run (k + 1) s = M.run k t := by
  rw [Host.Core.run, h]

/-! ## Any program, a whole frame (R451) -/

/-- Under the policy that runs unassigned opcodes as no-ops no run stops, and every tick is a dot. -/
theorem run_position {s : State} (h : s.params.illegalPolicy = .nop) (k : Nat) :
    ∃ t, Host.Core.run core k s = .next t ∧ t.ppu.position = s.ppu.position + k ∧
      t.clockCounter = s.clockCounter + k := by
  induction k generalizing s with
  | zero => exact ⟨s, rfl, (Nat.add_zero _).symm, (Nat.add_zero _).symm⟩
  | succ k ih =>
    obtain ⟨u, hu⟩ | ⟨hrefuse, -⟩ := stepNeverFaults s
    · obtain ⟨hparams, -⟩ := stepKeepsTheConstants s u hu
      obtain ⟨hposition, hclock, -⟩ := step_position hu
      obtain ⟨t, ht, hposition', hclock'⟩ := ih (s := u) (by rw [hparams, h])
      exact ⟨t, (run_succ (M := core) hu k).trans ht, by omega, by omega⟩
    · rw [h] at hrefuse
      exact absurd hrefuse (by decide)

/-- Settles O50: a frame is 262 × 341 positions, and the position tells frame, scanline and dot. -/
theorem aFrameIs89342Ticks : Obligations.AFrameIs89342Ticks := by
  unfold Obligations.AFrameIs89342Ticks
  intro s h
  obtain ⟨t, ht, hposition, hclock⟩ := run_position h 89342
  obtain ⟨hdot, hscanline, hframe⟩ := position_parts s.ppu
  obtain ⟨hdot', hscanline', hframe'⟩ := position_parts t.ppu
  exact ⟨t, ht, by omega, Fin.ext (by omega), Fin.ext (by omega), hclock⟩

/-! ## Between two boundaries (R576, R578) -/

/-- A run that meets no boundary is that many idle ticks. -/
theorem run_of_not_boundary {k : Nat} {s : State} (h : ∀ j < k, ¬ atBoundary (idleTick^[j] s)) :
    Host.Core.run core k s = .next (idleTick^[k] s) := by
  induction k generalizing s with
  | zero => rfl
  | succ k ih =>
    exact (run_succ (M := core) (step_of_not_boundary (h 0 k.succ_pos)) k).trans
      (ih fun j hj => h (j + 1) (Nat.succ_lt_succ hj))

section
variable (k : Nat) (s : State)

/-- Idle ticks count, run dots and may latch an NMI; they change nothing else. -/
theorem iterate_idleTick_frame :
    idleTick^[k] s =
      { s with
        ppu := (idleTick^[k] s).ppu
        clockCounter := s.clockCounter + k
        cpu := { s.cpu with
          countdown := (idleTick^[k] s).cpu.countdown
          nmiPending := (idleTick^[k] s).cpu.nmiPending } } := by
  induction k with
  | zero => rfl
  | succ k ih =>
    rw [Function.iterate_succ_apply']
    generalize idleTick^[k] s = t at ih
    rw [ih]
    rfl

theorem iterate_idleTick_clockCounter : (idleTick^[k] s).clockCounter = s.clockCounter + k :=
  congrArg State.clockCounter (iterate_idleTick_frame k s)

/-- The countdown goes down by one for every clock value divisible by 3 that the ticks have passed. -/
theorem iterate_idleTick_countdown :
    (idleTick^[k] s).cpu.countdown =
      s.cpu.countdown - ((s.clockCounter + k + 2) / 3 - (s.clockCounter + 2) / 3) := by
  induction k with
  | zero => simp
  | succ k ih =>
    have hclock := iterate_idleTick_clockCounter k s
    rw [Function.iterate_succ_apply', idleTick]
    simp only [ih, hclock]
    split <;> omega

end

/-- From just after a CPU cycle with countdown n, the first boundary is 3 n + 2 ticks on. -/
theorem atBoundary_iterate_idleTick {k : Nat} {s : State} (h : s.clockCounter % 3 = 1)
    (hk : k ≤ 3 * s.cpu.countdown + 2) : atBoundary (idleTick^[k] s) ↔ k = 3 * s.cpu.countdown + 2 := by
  rw [atBoundary, iterate_idleTick_clockCounter, iterate_idleTick_countdown]
  omega

/-- Settles O51: the ticks up to the boundary are idle, and idle ticks keep what `iterate_idleTick_frame` says. -/
theorem nextBoundaryAfterTheCountdown : Obligations.NextBoundaryAfterTheCountdown := by
  unfold Obligations.NextBoundaryAfterTheCountdown
  rintro n s hclock rfl
  have hidle : ∀ j < 3 * s.cpu.countdown + 2, ¬ atBoundary (idleTick^[j] s) := fun j hj hboundary =>
    hj.ne ((atBoundary_iterate_idleTick hclock hj.le).1 hboundary)
  have hboundary := (atBoundary_iterate_idleTick hclock le_rfl).2 rfl
  have hframe := iterate_idleTick_frame (3 * s.cpu.countdown + 2) s
  refine ⟨fun k hk => ⟨_, run_of_not_boundary fun j hj => hidle j (hj.trans hk), hidle k hk⟩,
    _, run_of_not_boundary hidle, hboundary, ?registers, ?ram, ?bringup, ?cart, ?ctl⟩
  case registers => rw [← hboundary.2]; exact congrArg State.cpu hframe
  case ram => rw [hframe]
  case bringup => rw [hframe]
  case cart => rw [hframe]
  case ctl => rw [hframe]

/-! ## The boot timeline (R572, R587) -/

/-- On line 0 no dot sets VBlank or requests an NMI, so idle ticks there keep the registers, VBlank and the latch. -/
theorem iterate_idleTick_line0 {s : State} (hline : s.ppu.scanline.val = 0) (hdot : s.ppu.dot.val = 0)
    (hrequest : s.ppu.nmiOut = false) {k : Nat} (hk : k ≤ 340) :
    let t := idleTick^[k] s
    t.ppu.scanline.val = 0 ∧ t.ppu.dot.val = k ∧ t.ppu.nmiOut = false ∧ t.ppu.ctrl = s.ppu.ctrl ∧
      t.ppu.mask = s.ppu.mask ∧ t.ppu.vblank = s.ppu.vblank ∧ t.cpu.nmiPending = s.cpu.nmiPending := by
  induction k with
  | zero => exact ⟨hline, hdot, hrequest, rfl, rfl, rfl, rfl⟩
  | succ k ih =>
    simp only [Function.iterate_succ_apply']
    generalize idleTick^[k] s = t at ih
    obtain ⟨hline', hdot', hrequest', hctrl, hmask, hvblank, hpending⟩ := ih (by omega)
    obtain ⟨hvblank', hnmiOut, -⟩ := ppuDot_flags t.cart (p := t.ppu) (by omega)
    have hposition := ppuDot_position t.cart t.ppu
    obtain ⟨hdots, hscanlines, -⟩ := position_parts (ppuDot t.cart t.ppu)
    rw [hposition, Ppu.position, hline', hdot'] at hdots hscanlines
    refine ⟨?_, ?_, rfl, ?_, ?_, ?_, ?_⟩
    · exact hscanlines.trans (by omega)
    · exact hdots.trans (by omega)
    · exact (ppuDot_ctrl _ _).trans hctrl
    · exact (ppuDot_mask _ _).trans hmask
    · exact hvblank'.trans hvblank
    · show (t.cpu.nmiPending || (ppuDot t.cart t.ppu).nmiOut) = _
      rw [hnmiOut, hrequest', hpending, Bool.or_false]

/-- Settles O53: reset leaves clock 0 and countdown 7, so ticks 0 to 20 are idle and tick 21 is a boundary; all of them
are on line 0. -/
theorem bootTimeline : Obligations.BootTimeline := by
  unfold Obligations.BootTimeline
  intro s
  have hboundary : ∀ k ≤ 21, (atBoundary (idleTick^[k] (systemReset s)) ↔ k = 21) := by
    intro k hk
    rw [atBoundary, iterate_idleTick_clockCounter, iterate_idleTick_countdown]
    simp only [systemReset, Cpu.reset, Config.resetCycles, State.setClock_clockCounter, State.setCtl_clockCounter,
      State.setCart_clockCounter, State.setPpu_clockCounter]
    omega
  have hidle : ∀ j < 21, ¬ atBoundary (idleTick^[j] (systemReset s)) := fun j hj h => hj.ne ((hboundary j hj.le).1 h)
  have hlast := (hboundary 21 le_rfl).2 rfl
  have hframe := iterate_idleTick_frame 21 (systemReset s)
  obtain ⟨hline, hdot, -, hctrl, hmask, hvblank, hpending⟩ :=
    iterate_idleTick_line0 (s := systemReset s) rfl rfl rfl (k := 21) (by omega)
  refine ⟨fun k hk => ⟨_, run_of_not_boundary fun j hj => hidle j (hj.trans hk), hidle k hk⟩,
    _, run_of_not_boundary hidle, hlast, ?clock, hline, hdot, ?registers, hctrl, hmask, hvblank⟩
  case clock => exact iterate_idleTick_clockCounter 21 (systemReset s)
  case registers =>
    refine (congrArg State.cpu hframe).trans ?_
    simp only [hpending, hlast.2]

end Sys2Proof.Machine

/-! PROOFS. Reset and construction (O52, O54): the reset vector, the images that are accepted, and that the machine they
give is sound. -/

namespace Sys2Proof.Machine

open Bits

/-! ## Reset (R570) -/

/-- A reset of the devices leaves what the reset vector reads as: it lies in PRG or bring-up RAM. -/
theorem systemReset_pc (s : State) : (systemReset s).cpu.pc = word (busRead 0xFFFD s) (busRead 0xFFFC s) := by
  obtain ⟨-, -, hlow, hhigh, -⟩ := target_vectors
  have hconstants : (s.cart.map fun c => { c with chrBank := 0 }).map Cartridge.constants =
      s.cart.map Cartridge.constants := Option.map_map ..
  refine (readWord_prg _ hlow).trans (congrArg₂ word ?high ?low)
  case high => exact busRead_prg_congr hhigh rfl hconstants
  case low => exact busRead_prg_congr hlow rfl hconstants

/-- Settles O52: PC by `systemReset_pc`, every other field as the reset writes or keeps it. -/
theorem systemResetValues : Obligations.SystemResetValues := by
  unfold Obligations.SystemResetValues
  intro s
  refine ⟨?registers, rfl, rfl, rfl, rfl, rfl, rfl, rfl, rfl, rfl, rfl, rfl, rfl, rfl, rfl, rfl, rfl, rfl, rfl, rfl,
    rfl, rfl, rfl, rfl, ?slots, rfl, rfl, rfl, rfl, rfl, rfl, rfl, rfl, rfl, rfl, rfl, rfl, rfl, rfl⟩
  case registers => rw [← systemReset_pc]; rfl
  case slots => exact fun k => ⟨Vector.getElem_replicate _, Vector.getElem_replicate _, Vector.getElem_replicate _⟩

/-- A reset makes a sound machine of one whose memories and cartridge are sound. -/
theorem systemReset_inv {s : State} (h : s.inv = true) : (systemReset s).inv = true := by
  have hs := (inv_iff s).1 h
  rw [inv_iff]
  refine ⟨hs.ram, hs.bringup, ?ppu, ?cart, (by decide : getFlag .u 0x20 = true),
    (by decide : getFlag .b 0x20 = false)⟩
  case ppu => exact (Ppu.inv_congr (p := s.ppu) rfl rfl rfl rfl).trans hs.ppu
  case cart =>
    have hcart := hs.cart
    show (s.cart.map fun c => { c with chrBank := 0 }).all Cartridge.inv = true
    cases hc : s.cart with
    | none => rfl
    | some c =>
      simp only [hc, Option.all_some, Cartridge.inv, Bool.and_eq_true, decide_eq_true_eq] at hcart
      obtain ⟨⟨⟨hprg, hchr⟩, -⟩, hfixed⟩ := hcart
      simp only [Option.map_some, Option.all_some, Cartridge.inv, Bool.and_eq_true, decide_eq_true_eq]
      exact ⟨⟨⟨hprg, hchr⟩, by omega⟩, hfixed⟩

/-! ## Memories from buffers (R7, log 10) -/

theorem Cells.ofList_ok {w n : Nat} {bytes : List (BitVec w)} (h : bytes.length ≤ n) :
    Cells.ok (Cells.ofList 0 bytes) n = true := by
  rw [Cells.ok, Cells.ofList_wf, Cells.ofList_within _ _ _ (by omega)]; rfl

theorem memoryOf_ok (n : Nat) (bytes : List Byte) : Cells.ok (memoryOf n bytes) n = true :=
  Cells.ofList_ok (List.length_take_le n bytes)

/-! ## Construction (R95, R571) -/

/-- The mapper ids R96 names. -/
theorem mapperOf_eq_some {id : Nat} {m : Mapper} :
    mapperOf id = some m ↔ (id = 0 ∧ m = .fixed) ∨ (id = 3 ∧ m = .switchableChr) := by
  unfold mapperOf
  split <;> simp_all [eq_comm]

/-- One bank or two, as the image says. -/
theorem prgBanksOf_eq_some {banks : Nat} {n : PrgBanks} :
    prgBanksOf banks = some n ↔ (banks = 1 ∧ n = .one) ∨ (banks = 2 ∧ n = .two) := by
  unfold prgBanksOf
  split <;> simp_all [eq_comm]

/-- Construction gives a cartridge for the accepted images and for no other. -/
theorem insertCartridge_isSome (image : CartridgeImage) (initChr : List Byte) :
    (insertCartridge image initChr).isSome = true ↔ accepted image := by
  unfold insertCartridge accepted
  split
  case h_1 m n hm hn =>
    obtain ⟨hid, rfl⟩ | ⟨hid, rfl⟩ := mapperOf_eq_some.1 hm <;>
      obtain ⟨hbanks, rfl⟩ | ⟨hbanks, rfl⟩ := prgBanksOf_eq_some.1 hn <;>
      simp [hid, hbanks, Config.prgBankSize, Config.chrBankSize]
  case h_2 hnone =>
    refine ⟨fun h => absurd h Bool.false_ne_true, fun ⟨hid, hbanks, _⟩ => ?_⟩
    obtain ⟨m, hm⟩ : ∃ m, mapperOf image.mapperId = some m := by
      rcases hid with h | h <;> exact ⟨_, by rw [h]; rfl⟩
    obtain ⟨n, hn⟩ : ∃ n, prgBanksOf image.prgBanks = some n := by
      rcases hbanks with h | h <;> exact ⟨_, by rw [h]; rfl⟩
    exact absurd hn (hnone m n hm)

theorem prgSize_of_prgBanksOf {banks : Nat} {n : PrgBanks} (h : prgBanksOf banks = some n) :
    prgSize n = Config.prgBankSize * banks := by
  obtain ⟨rfl, rfl⟩ | ⟨rfl, rfl⟩ := prgBanksOf_eq_some.1 h <;> rfl

/-- An inserted cartridge is one R95 accepts, with bank 0 selected. -/
theorem insertCartridge_inv {image : CartridgeImage} {initChr : List Byte} {c : Cartridge}
    (h : insertCartridge image initChr = some c) : c.inv = true := by
  unfold insertCartridge at h
  split at h
  case h_2 => cases h
  case h_1 m n hm hn =>
    split at h
    case isFalse => cases h
    case isTrue haccepted =>
      obtain ⟨hprg, hfixed, hchr⟩ := haccepted
      cases h
      simp only [Cartridge.inv, Bool.and_eq_true, decide_eq_true_eq]
      refine ⟨⟨⟨Cells.ofList_ok ?prg, ?chr⟩, by omega⟩, hfixed⟩
      case prg => rw [prgSize_of_prgBanksOf hn, hprg]
      case chr =>
        split
        case isTrue hzero => rw [hzero]; exact memoryOf_ok _ _
        case isFalse hbanks =>
          have hpos : 0 < image.chrBanks := Nat.pos_of_ne_zero hbanks
          exact Cells.ofList_ok (by rw [hchr hpos, max_eq_left hpos])

/-- The machine that construction hands to the reset (R571). -/
def constructed (params : Params) (init : InitialContents) (cart : Option Cartridge) : State :=
  { cpu := Cpu.reset 0x0000
    ram := memoryOf Config.ramSize init.ram
    clockCounter := 0
    bringupRam := memoryOf Config.bringupSize init.bringupRam
    ppu := Ppu.reset (memoryOf Config.vramSize init.vram) (memoryOf Config.paletteSize init.palette)
      (memoryOf Config.oamSize init.oam) []
    cart := cart
    ctl := { strobe := false, shift0 := 0x00, shift1 := 0x00, buttons0 := 0x00, buttons1 := 0x00 }
    params := params }

section
variable (params : Params) (init : InitialContents)

theorem powerOn_none : powerOn params none init = .next (systemReset (constructed params init none)) := rfl

theorem powerOn_some {image : CartridgeImage} {c : Cartridge} (h : insertCartridge image init.chrRam = some c) :
    powerOn params (some image) init = .next (systemReset (constructed params init (some c))) := by
  simp only [powerOn, h, constructed]

theorem powerOn_refused {image : CartridgeImage} (h : insertCartridge image init.chrRam = none) :
    powerOn params (some image) init = .refused .unsupportedCartridge := by
  simp only [powerOn, h]

theorem constructed_inv {cart : Option Cartridge} (h : cart.all Cartridge.inv = true) :
    (constructed params init cart).inv = true := by
  rw [inv_iff]
  exact ⟨memoryOf_ok _ _, memoryOf_ok _ _,
    Ppu.inv_of_parts (memoryOf_ok _ _) (memoryOf_ok _ _) (memoryOf_ok _ _) rfl, h,
    (by decide : getFlag .u 0x20 = true), (by decide : getFlag .b 0x20 = false)⟩

end

/-- Settles O54: an image is accepted exactly when it gives a cartridge; power-on then resets a sound state. -/
theorem constructionAcceptsOrRefuses : Obligations.ConstructionAcceptsOrRefuses := by
  unfold Obligations.ConstructionAcceptsOrRefuses
  refine fun params image init => ⟨fun h => ?accepts, fun h => ?refuses, ?bringup⟩
  case accepts =>
    obtain ⟨c, hc⟩ := Option.isSome_iff_exists.1 ((insertCartridge_isSome image init.chrRam).2 h)
    exact ⟨_, powerOn_some params init hc, systemReset_inv (constructed_inv params init (insertCartridge_inv hc)),
      rfl⟩
  case refuses =>
    exact powerOn_refused params init (Option.not_isSome_iff_eq_none.1 (mt (insertCartridge_isSome _ _).1 h))
  case bringup =>
    exact ⟨_, powerOn_none params init, systemReset_inv (constructed_inv params init rfl), rfl⟩

end Sys2Proof.Machine
